-- ==== Sys2Proof/Word.lean ====
section
/-! DEFINITION. The two word types of the PSG: 8-bit brightness, phase and index values, and 32-bit masks,
Schedule entries, command words and responses (spec/00_scope.md section 7, rule R4). -/

namespace Sys2Proof

/-- An 8-bit unsigned value: brightness, curve value, phase, or one of the indices `i`, `k`, `t`. -/
abbrev Byte := BitVec 8

/-- A 32-bit unsigned value: a mask, a Schedule entry, a command word or a response. Bit n of a mask stands for
output line n (rule R31). -/
abbrev Word := BitVec 32

end Sys2Proof
end

