-- ==== Sys2Proof/Syntax.lean ====
section
/-! DEFINITION. The commands of PSG-CMD version 1, one constructor per row of spec/opcode_table.json
(spec/30_encoding.md rules R55, R62). The frame step and the build micro-step have no command word (rule R58) and
are no constructors: they are steps of the machine. -/

namespace Sys2Proof

/-- A command with its 8-bit operands: `i` a channel index, `v` a value, `k` a rotation count, `t` a phase
(rule R54: taken from the word unchanged, unsigned). -/
inductive Instr where
  | get (i : Byte)
  | set (i v : Byte)
  | adds (i v : Byte)
  | addsAll (v : Byte)
  | subs (i v : Byte)
  | subsAll (v : Byte)
  | addw (i v : Byte)
  | addwAll (v : Byte)
  | subw (i v : Byte)
  | subwAll (v : Byte)
  | rotl (k : Byte)
  | rotr (k : Byte)
  | rebuild
  | onmask (t : Byte)
  | offmask (t : Byte)
  deriving DecidableEq, Repr

end Sys2Proof
end

