-- ==== Sys2Proof/Decode.lean ====
section
/-! DEFINITION. Decoding and encoding of command words (spec/30_encoding.md rules R52 to R56, R59, R62), and the
opcode map of rule R55 as a table. A command is one whole 32-bit word; there is no byte order (rule R32). -/

namespace Sys2Proof

/-! ### The five fields of rule R52 -/

/-- `op`, bits 31:28. -/
def opField (w : Word) : BitVec 4 := w.extractLsb' 28 4

/-- `A`, bit 27. -/
def allField (w : Word) : Bool := w.getLsbD 27

/-- `zero`, bits 26:16. -/
def zeroField (w : Word) : BitVec 11 := w.extractLsb' 16 11

/-- `idx`, bits 15:8. -/
def idxField (w : Word) : Byte := w.extractLsb' 8 8

/-- `val`, bits 7:0. -/
def valField (w : Word) : Byte := w.extractLsb' 0 8

/-- Why a word is reserved, one name per clause of rule R56. -/
inductive Reserved where
  /-- `op` is 0x0 or 0xC to 0xF. -/
  | opcode
  /-- the `zero` field is not 0. -/
  | zero
  /-- `A = 1` on an operation without an all-channels form. -/
  | allForm
  /-- the `idx` field is not 0 in a format that does not use it. -/
  | idx
  /-- the `val` field is not 0 in a format that does not use it. -/
  | val
  deriving DecidableEq, Repr

/-! ### The four formats of rule R53 -/

/-- Format IV: channel and value. -/
def formatIV (w : Word) (c : Byte → Byte → Instr) : Except Reserved Instr := .ok (c (idxField w) (valField w))

/-- Format AV: value only, `idx` must be 0. -/
def formatAV (w : Word) (c : Byte → Instr) : Except Reserved Instr :=
  if idxField w = 0 then .ok (c (valField w)) else .error .idx

/-- Format X: index only, `val` must be 0. -/
def formatX (w : Word) (c : Byte → Instr) : Except Reserved Instr :=
  if valField w = 0 then .ok (c (idxField w)) else .error .val

/-- Format Z: no operand, `idx` and `val` must be 0. -/
def formatZ (w : Word) (c : Instr) : Except Reserved Instr :=
  if idxField w ≠ 0 then .error .idx else if valField w ≠ 0 then .error .val else .ok c

/-- The decoder of rule R62: total on words, every reserved word of rule R56 rejected by name. -/
def decode (w : Word) : Except Reserved Instr :=
  if zeroField w ≠ 0 then .error .zero else
  match (opField w).toNat, allField w with
  | 0x1, false => formatX w .get
  | 0x2, false => formatIV w .set
  | 0x3, false => formatIV w .adds
  | 0x3, true => formatAV w .addsAll
  | 0x4, false => formatIV w .subs
  | 0x4, true => formatAV w .subsAll
  | 0x5, false => formatIV w .addw
  | 0x5, true => formatAV w .addwAll
  | 0x6, false => formatIV w .subw
  | 0x6, true => formatAV w .subwAll
  | 0x7, false => formatX w .rotl
  | 0x8, false => formatX w .rotr
  | 0x9, false => formatZ w .rebuild
  | 0xA, false => formatX w .onmask
  | 0xB, false => formatX w .offmask
  | 0x1, true | 0x2, true | 0x7, true | 0x8, true | 0x9, true | 0xA, true | 0xB, true => .error .allForm
  | _, _ => .error .opcode

/-- What the decoder reads from a word whose bits are `w`, numbered as spec/opcode_table.json numbers them; bits
above `nbits` are 0. A command is one 32-bit word (rule R61), so a longer encoding is none. -/
def decodeTableWord (nbits w : Nat) : Option Instr :=
  if nbits ≤ 32 then (decode (BitVec.ofNat 32 (w % 2 ^ nbits))).toOption else none

/-! ### The encoder, rule R59 -/

/-- `op << 28 | A << 27 | idx << 8 | val`. -/
def commandWord (op : Nat) (all : Bool) (idx val : Byte) : Word :=
  (BitVec.ofNat 32 op <<< 28) ||| ((if all then 1#32 else 0#32) <<< 27) ||| (idx.setWidth 32 <<< 8) ||| val.setWidth 32

/-- The command word of a command, its unused fields 0 (rules R53, R55, R59). -/
def encode : Instr → Word
  | .get i => commandWord 0x1 false i 0
  | .set i v => commandWord 0x2 false i v
  | .adds i v => commandWord 0x3 false i v
  | .addsAll v => commandWord 0x3 true 0 v
  | .subs i v => commandWord 0x4 false i v
  | .subsAll v => commandWord 0x4 true 0 v
  | .addw i v => commandWord 0x5 false i v
  | .addwAll v => commandWord 0x5 true 0 v
  | .subw i v => commandWord 0x6 false i v
  | .subwAll v => commandWord 0x6 true 0 v
  | .rotl k => commandWord 0x7 false k 0
  | .rotr k => commandWord 0x8 false k 0
  | .rebuild => commandWord 0x9 false 0 0
  | .onmask t => commandWord 0xA false t 0
  | .offmask t => commandWord 0xB false t 0

/-! ### The opcode map of rule R55 -/

/-- One row of the opcode map: a word `w` is this command exactly when `w & mask = pattern`. -/
structure OpcodeRow where
  mnemonic : String
  pattern : Word
  mask : Word
  deriving DecidableEq, Repr

/-- The word matches the row. -/
def OpcodeRow.hits (r : OpcodeRow) (w : Word) : Bool := w &&& r.mask == r.pattern

/-- The fifteen rows of rule R55, in its order. -/
def opcodeTable : List OpcodeRow :=
  [⟨"GET", 0x10000000, 0xFFFF00FF⟩,
   ⟨"SET", 0x20000000, 0xFFFF0000⟩,
   ⟨"ADDS", 0x30000000, 0xFFFF0000⟩,
   ⟨"ADDS.ALL", 0x38000000, 0xFFFFFF00⟩,
   ⟨"SUBS", 0x40000000, 0xFFFF0000⟩,
   ⟨"SUBS.ALL", 0x48000000, 0xFFFFFF00⟩,
   ⟨"ADDW", 0x50000000, 0xFFFF0000⟩,
   ⟨"ADDW.ALL", 0x58000000, 0xFFFFFF00⟩,
   ⟨"SUBW", 0x60000000, 0xFFFF0000⟩,
   ⟨"SUBW.ALL", 0x68000000, 0xFFFFFF00⟩,
   ⟨"ROTL", 0x70000000, 0xFFFF00FF⟩,
   ⟨"ROTR", 0x80000000, 0xFFFF00FF⟩,
   ⟨"REBUILD", 0x90000000, 0xFFFFFFFF⟩,
   ⟨"ONMASK", 0xA0000000, 0xFFFF00FF⟩,
   ⟨"OFFMASK", 0xB0000000, 0xFFFF00FF⟩]

/-- The mnemonic of a command, as rule R55 spells it. -/
def mnemonicOf : Instr → String
  | .get _ => "GET"
  | .set _ _ => "SET"
  | .adds _ _ => "ADDS"
  | .addsAll _ => "ADDS.ALL"
  | .subs _ _ => "SUBS"
  | .subsAll _ => "SUBS.ALL"
  | .addw _ _ => "ADDW"
  | .addwAll _ => "ADDW.ALL"
  | .subw _ _ => "SUBW"
  | .subwAll _ => "SUBW.ALL"
  | .rotl _ => "ROTL"
  | .rotr _ => "ROTR"
  | .rebuild => "REBUILD"
  | .onmask _ => "ONMASK"
  | .offmask _ => "OFFMASK"

end Sys2Proof
end

