-- ==== Sys2Proof/Config.lean ====
section
/-! DEFINITION. The construction parameters of the PSG (spec/00_scope.md rule R4): what is fixed when the block is
constructed and what no command changes. The fixed interface of this package gives `step` no parameter argument, so
a parameter set is carried by the machine state as a field no step changes (assumption 1). The model needs no
free value: every value a step writes is stated by a rule. -/

namespace Sys2Proof

/-- A parameter set of rule R4. `N` is the number of entries of `pinMap`; 256 levels, 8-bit brightness and 32-bit
masks are literals of the spec (rule R6). The frequencies F_FRAME and F_TICK are timing only and have no field. -/
structure Params where
  /-- `PIN_MAP[0..N-1]`, one 32-bit pin mask per channel (rules R4, R12). -/
  pinMap : List Word
  /-- `DEBUG_BIT`, the position of the reserved bit (rule R4); `Params.legal` asks for at most 31. -/
  debugBit : Nat
  /-- `USE_CURVE` (rules R4, R90). -/
  useCurve : Bool
  /-- `CURVE[0..255]` (rules R4, R13); `Params.legal` asks for 256 entries and nothing else. -/
  curve : List Byte
  /-- `STRICT_SWAP` (rules R4, R39): `false` is the spec's decided behaviour, `true` its flagged alternative. -/
  strictSwap : Bool
  deriving DecidableEq, Repr

/-- `N`, the number of channels (rule R4). -/
def Params.n (p : Params) : Nat := p.pinMap.length

/-- The parameter set that `State.reset` is constructed with: test configuration T0 of spec/95_test_vectors.md
(N = 19 as in the reference design, `PIN_MAP[i] = 1 << i`, `DEBUG_BIT = 31`, `USE_CURVE` false, `STRICT_SWAP` false).
DESIGN CHOICE, unsafe (assumption 2): the spec leaves `PIN_MAP`, `DEBUG_BIT`, `USE_CURVE` and `CURVE` open.
The curve, unused here, is the identity. -/
def Params.reference : Params where
  pinMap := (List.range 19).map (fun i => (1#32 <<< i))
  debugBit := 31
  useCurve := false
  curve := (List.range 256).map (fun b => BitVec.ofNat 8 b)
  strictSwap := false

end Sys2Proof
end

