-- ==== Sys2Proof/Machine/State.lean ====
section
/-! DEFINITION. The state of the PSG (spec/10_state.md), the environment's input and the observation record, the
reasons a step can stop, and the state after reset (spec/70_reset_and_hazards.md rule R141). -/

namespace Sys2Proof.Machine

/-- An index space of 256 whole 32-bit entries (rule R30, SCHED) as a list of (index, entry) pairs in one canonical
form: indices strictly rising and no entry equal to 0, which is what an unlisted index reads as (the reset contents
of rule R14). `Memory.wf` is the form. Entries are never laid out as bytes (rule R32). -/
abbrev Memory := List (Nat × Word)

/-- One event `write_pins(on_mask, off_mask)` on the pin output (rule R24). -/
structure PinEvent where
  on : Word
  off : Word
  deriving DecidableEq, Repr

/-- One move of the world outside the block, or the agents' turn (rules R7, R24, R128; assumption 4). -/
inductive EnvMove where
  /-- The frame timer raises the frame request (rules R20, R122). -/
  | frameRequest
  /-- The host presents a command word at the command port (rules R50, R133). -/
  | command (w : Word)
  /-- The other user of the reserved line drives it (rule R132, spec/93_implementation_defined.md U4). -/
  | debugLine (level : Bool)
  /-- The environment does nothing: the agents take one step. -/
  | agents
  deriving DecidableEq, Repr

/-- Why the machine stops with a fault. The hardware itself has no fault state (rules R120, R121). -/
inductive Fault where
  /-- Contract violation CV1 (rules R44, R121): a channel index outside `[0, N)` in GET, SET, ADDS, SUBS, ADDW or
  SUBW. Raised by those six meanings. Safe: the hardware's behaviour is not defined and nothing is claimed of it. -/
  | indexRange (i : Byte)
  deriving DecidableEq, Repr

/-- Why the machine gives an input no meaning. -/
inductive Refusal where
  /-- An instruction without a meaning yet. Raised by a refused arm of `exec` only; there is none. Safe. -/
  | notModelled (mnemonic : String)
  /-- Contract violation CV2 (rules R56, R121): a reserved command word is taken from the port. Raised by the step
  of agent L. Safe: the block defines no behaviour for it. -/
  | reservedWord (w : Word)
  /-- Contract violation CV3 (rules R5, R121): an illegal parameter set. Raised by `construct` only. Safe: the block
  is not constructed. -/
  | illegalParams
  deriving DecidableEq, Repr

/-- The machine: the block's state (rules R10 to R20), the environment state the spec models with it (`pins`, `port`),
the construction parameters, and the model's own input list and observation record. -/
structure State where
  /-- The construction parameters (rule R4), never changed by a step (assumption 1). -/
  params : Params
  /-- `B[0..N-1]`, the BrightnessStore (rule R10). -/
  b : List Byte
  /-- `S[0..255]`, the Schedule memory (rule R14). -/
  sched : Memory
  /-- `SH[0..255]`, the second array of rule R39, used only when `STRICT_SWAP` is true. -/
  shadow : Memory
  /-- `PH`, the PhaseCounter (rule R16). -/
  ph : Byte
  /-- `BUSY`, a build is in progress (rule R19). -/
  busy : Bool
  /-- `CUR`, the build cursor (rule R19). -/
  cur : Byte
  /-- `FP`, the frame request is pending (rule R20). -/
  fp : Bool
  /-- `PINS`, the output line latch of the environment model (rule R25). -/
  pins : Word
  /-- The word the host holds at the command port, if any: `cmd_valid` and `cmd_word` (rules R50, R51). -/
  port : Option Word
  /-- The moves the environment has settled and not yet made, first move first: the model's input (assumption 4).
  `State.supply` adds to it, so that a run can have endlessly many. -/
  env : List EnvMove
  /-- Every response the block has given, first response first (rules R8, R57): the model's record (assumption 7). -/
  responses : List Word
  /-- Every `write_pins` event the block has emitted, first event first (rule R8): the model's record (assumption 7). -/
  pinEvents : List PinEvent
  deriving DecidableEq, Repr

/-- The reset state of rule R141 for a parameter set `p`, with `PINS` at `pins0`: the spec leaves the reset value of
`PINS` unspecified, so it is an argument here. -/
def State.atReset (p : Params) (pins0 : Word) : State where
  params := p
  b := List.replicate p.n 0
  sched := []
  shadow := []
  ph := 0
  busy := false
  cur := 0
  fp := false
  pins := pins0
  port := none
  env := []
  responses := []
  pinEvents := []

/-- The machine right after reset: rule R141 for `Params.reference` (assumption 2), `PINS` at 0 (DESIGN CHOICE,
unsafe, assumption 3). -/
def State.reset : State := State.atReset Params.reference 0

end Sys2Proof.Machine
end

