-- ==== Sys2Proof/Machine/Flags.lean ====
section
/-! DEFINITION. The arithmetic of spec/40_brightness_ops.md rule R84. The block has no flags (spec/10_state.md rule
R18): a clamp and a wrap are silent, so the four result functions are all there is. Each computes exactly on the
naturals and is brought back to 8 bits at the end. -/

namespace Sys2Proof.Machine

/-- `min(255, x + y)`. -/
def addSat (x y : Byte) : Byte := BitVec.ofNat 8 (min 255 (x.toNat + y.toNat))

/-- `max(0, x - y)`: on the naturals, the truncated difference. -/
def subSat (x y : Byte) : Byte := BitVec.ofNat 8 (x.toNat - y.toNat)

/-- `(x + y) mod 256`. -/
def addWrap (x y : Byte) : Byte := BitVec.ofNat 8 ((x.toNat + y.toNat) % 256)

/-- `(x - y) mod 256`, the non-negative remainder. -/
def subWrap (x y : Byte) : Byte := BitVec.ofNat 8 ((x.toNat + 256 - y.toNat) % 256)

end Sys2Proof.Machine
end

