-- ==== Sys2Proof/Machine/Ops.lean ====
section
/-! DEFINITION. The shared operations: one read and one write of each index space (spec/20_memory.md rule R30), the
reserved mask, a response, a `write_pins` event, and what takes the place of an exception. The block raises none
(spec/60_exceptions.md rule R120): `violate` is the one way a command can leave its domain, and the preemption by a
frame step saves and restores nothing (rules R126, R127). -/

namespace Sys2Proof

/-- `RESERVED_MASK = 1 << DEBUG_BIT` (rule R4). -/
def Params.reservedMask (p : Params) : Word := 1#32 <<< p.debugBit

/-- `PIN_MAP[i]` (rule R12). -/
def Params.pin (p : Params) (i : Nat) : Word := p.pinMap.getD i 0

/-- `CURVE[b]` (rule R13). -/
def Params.curveAt (p : Params) (b : Byte) : Byte := p.curve.getD b.toNat 0

end Sys2Proof

namespace Sys2Proof.Machine

/-! ### The SCHED index space -/

/-- What an index with no listed entry reads as: the reset contents of rule R14 (the spec's decision D6). -/
def unlisted : Word := 0

/-- `MemRead(SCHED, t)`: one whole entry (rule R34). -/
def Memory.read : Memory → Nat → Word
  | [], _ => unlisted
  | (a, v) :: m, t => if a = t then v else Memory.read m t

/-- `MemWrite(SCHED, t, v)`: one whole entry, keeping the canonical form. -/
def Memory.write : Memory → Nat → Word → Memory
  | [], t, v => if v = unlisted then [] else [(t, v)]
  | (a, u) :: m, t, v =>
    if t < a then (if v = unlisted then (a, u) :: m else (t, v) :: (a, u) :: m)
    else if t = a then (if v = unlisted then m else (t, v) :: m)
    else (a, u) :: Memory.write m t v

/-- The canonical form from index `lo` on: indices at least `lo`, strictly rising and below 256, no entry that
equals `unlisted`. -/
def Memory.wfFrom : Nat → Memory → Bool
  | _, [] => true
  | lo, (a, v) :: m => decide (lo ≤ a ∧ a < 256 ∧ v ≠ unlisted) && Memory.wfFrom (a + 1) m

/-- The memory is in its canonical form. -/
def Memory.wf (m : Memory) : Bool := Memory.wfFrom 0 m

/-! ### The BSTORE index space -/

/-- `B[i]` (rule R10), read for `i < N` only. -/
def State.readB (s : State) (i : Nat) : Byte := s.b.getD i 0

/-- `B[i] <- v` (rule R10), `i < N`. -/
def State.writeB (s : State) (i : Nat) (v : Byte) : State := { s with b := s.b.set i v }

/-- Every `B[i] <- f B[i]` in one atomic step; the updates are independent (rule R75, decision D23). -/
def State.mapB (s : State) (f : Byte → Byte) : State := { s with b := s.b.map f }

/-- `B'[i] <- B[src i]` for every `i` in 0..N-1, all reads from the old store (rules R80, R81). -/
def State.permuteB (s : State) (src : Nat → Nat) : State :=
  { s with b := (List.range s.params.n).map (fun i => s.readB (src i)) }

/-- `S[t]`. -/
def State.readS (s : State) (t : Nat) : Word := s.sched.read t

/-! ### The off-mask, shared by OFFMASK and the frame step -/

/-- `~on & ~RESERVED_MASK` (rules R99, R110, R111). -/
def offMask (p : Params) (on : Word) : Word := ~~~on &&& ~~~p.reservedMask

/-! ### Outputs -/

/-- `respond(v)`: one 32-bit response, after all earlier ones (rule R57). -/
def State.respond (s : State) (v : Word) : State := { s with responses := s.responses ++ [v] }

/-- `PINS <- (PINS | on) & ~off` (rule R25, decision D19). -/
def latch (pins on off : Word) : Word := (pins ||| on) &&& ~~~off

/-- `emit write_pins(on, off)`: the event, and the latch of the output layer behind it (rules R24, R25). -/
def State.emitPins (s : State) (on off : Word) : State :=
  { s with pinEvents := s.pinEvents ++ [⟨on, off⟩], pins := latch s.pins on off }

/-! ### Leaving the valid input domain -/

/-- `violate <Contract>(info)`: the hardware's behaviour is not defined and the model faults (rule R121). -/
def violate (f : Fault) : Host.Outcome State Fault Refusal := .fault f

end Sys2Proof.Machine
end

