-- ==== Sys2Proof/Machine/Operands.lean ====
section
/-! DEFINITION. The operand forms of the commands (spec/40_brightness_ops.md rule R86: direct entry index is the one
addressing mode): a channel index with its precondition `i < N`, and a rotation count reduced mod N. Values and
phases are the 8-bit field unchanged (spec/30_encoding.md rule R54). -/

namespace Sys2Proof.Machine

/-- A command on channel `i`: `if i >= N then violate IndexRange(i)`, otherwise its effect at index `i`
(rules R44, R70 (e)). -/
def withChannel (s : State) (i : Byte) (effect : Nat → State) : Host.Outcome State Fault Refusal :=
  if i.toNat < s.params.n then .next (effect i.toNat) else violate (.indexRange i)

/-- The channel whose value ROTL moves to channel `i`: `(i + k) mod N` (rule R80, decision D15). -/
def rotlSource (n : Nat) (k : Byte) (i : Nat) : Nat := (i + k.toNat) % n

/-- The channel whose value ROTR moves to channel `i`: `(i + N - (k mod N)) mod N` (rule R81, decision D15). -/
def rotrSource (n : Nat) (k : Byte) (i : Nat) : Nat := (i + n - k.toNat % n) % n

/-- The phase operand `t` as an entry index: every 8-bit value is legal (rule R44). -/
def phaseIndex (t : Byte) : Nat := t.toNat

end Sys2Proof.Machine
end

