-- ==== Sys2Proof/Machine/Brightness.lean ====
section
/-! DEFINITION. The brightness store commands (spec/40_brightness_ops.md). Each is one atomic step of agent L (rule
R70 (a)); that it is taken only when `BUSY = 0` is the port's acceptance, in `agentStep`. None touches the
Schedule, `PH`, `BUSY`, `CUR` or `FP` (rule R70 (b)). -/

namespace Sys2Proof.Machine

/-- GET, rule R72: `respond(zext_32(B[i]))`. -/
def execGet (i : Byte) (s : State) : Host.Outcome State Fault Refusal :=
  withChannel s i fun c => s.respond ((s.readB c).setWidth 32)

/-- SET, rule R73: `B[i] <- v`. -/
def execSet (i v : Byte) (s : State) : Host.Outcome State Fault Refusal :=
  withChannel s i fun c => s.writeB c v

/-- ADDS, rule R74. -/
def execAdds (i v : Byte) (s : State) : Host.Outcome State Fault Refusal :=
  withChannel s i fun c => s.writeB c (addSat (s.readB c) v)

/-- ADDS.ALL, rule R75. -/
def execAddsAll (v : Byte) (s : State) : Host.Outcome State Fault Refusal :=
  .next (s.mapB (addSat · v))

/-- SUBS, rule R76. -/
def execSubs (i v : Byte) (s : State) : Host.Outcome State Fault Refusal :=
  withChannel s i fun c => s.writeB c (subSat (s.readB c) v)

/-- SUBS.ALL, rule R77. -/
def execSubsAll (v : Byte) (s : State) : Host.Outcome State Fault Refusal :=
  .next (s.mapB (subSat · v))

/-- ADDW, rule R78. -/
def execAddw (i v : Byte) (s : State) : Host.Outcome State Fault Refusal :=
  withChannel s i fun c => s.writeB c (addWrap (s.readB c) v)

/-- ADDW.ALL, rule R79. -/
def execAddwAll (v : Byte) (s : State) : Host.Outcome State Fault Refusal :=
  .next (s.mapB (addWrap · v))

/-- SUBW, rule R82. -/
def execSubw (i v : Byte) (s : State) : Host.Outcome State Fault Refusal :=
  withChannel s i fun c => s.writeB c (subWrap (s.readB c) v)

/-- SUBW.ALL, rule R83. -/
def execSubwAll (v : Byte) (s : State) : Host.Outcome State Fault Refusal :=
  .next (s.mapB (subWrap · v))

/-- ROTL, rule R80: `B'[i] <- B[(i + k) mod N]`. -/
def execRotl (k : Byte) (s : State) : Host.Outcome State Fault Refusal :=
  .next (s.permuteB (rotlSource s.params.n k))

/-- ROTR, rule R81: `B'[i] <- B[(i + N - (k mod N)) mod N]`. -/
def execRotr (k : Byte) (s : State) : Host.Outcome State Fault Refusal :=
  .next (s.permuteB (rotrSource s.params.n k))

end Sys2Proof.Machine
end

