-- ==== Sys2Proof/Machine/Schedule.lean ====
section
/-! DEFINITION. The schedule builder and the mask look-ups (spec/41_schedule_builder.md): effective brightness, the
target mask, the document's threshold algorithm, REBUILD with its micro-step, ONMASK and OFFMASK. -/

namespace Sys2Proof.Machine

/-! ### The functions of rules R90 and R91 -/

/-- The effective brightness of a stored brightness (rule R90). -/
def effective (p : Params) (x : Byte) : Byte := if p.useCurve then p.curveAt x else x

/-- `eff(i)` for the brightness store `b` (rule R90). -/
def effAt (p : Params) (b : List Byte) (i : Nat) : Byte := effective p (b.getD i 0)

/-- The bitwise or of a list of masks, 0 for none (spec/00_scope.md section 7, `OR`). -/
def orMasks (ms : List Word) : Word := ms.foldr (· ||| ·) 0

/-- The or of `PIN_MAP[i]` over the channels `i` in 0..N-1 whose effective brightness is strictly greater
than `t`: `M(t)` of rule R91. -/
def targetMask (p : Params) (b : List Byte) (t : Nat) : Word :=
  orMasks (((List.range p.n).filter (fun i => t < (effAt p b i).toNat)).map p.pin)

/-- `full_mask` (rule R91): the mask of all channels. -/
def fullMask (p : Params) : Word := orMasks ((List.range p.n).map p.pin)

/-! ### The document's algorithm, rule R92 -/

/-- The distinct values of the effective brightnesses and the sentinels 0 and 255, ascending (rule R92 step 2). -/
def thresholds (p : Params) (b : List Byte) : List Nat :=
  (List.range 256).filter fun x =>
    x == 0 || x == 255 || (List.range p.n).any (fun i => (effAt p b i).toNat == x)

/-- The writes for each adjacent threshold pair `(start, end)`: the one mask of `start`, at `start .. end-1`
(rule R92 step 3). -/
def rangeWrites (p : Params) (b : List Byte) : List Nat → List (Nat × Word)
  | lo :: hi :: rest =>
    let mask := targetMask p b lo
    (List.range' lo (hi - lo)).map (fun t => (t, mask)) ++ rangeWrites p b (hi :: rest)
  | _ => []

/-- The Schedule writes of `ScheduleBuilder.calculate`, in order (rule R92). -/
def documentWrites (p : Params) (b : List Byte) : List (Nat × Word) := rangeWrites p b (thresholds p b)

/-! ### REBUILD and the build micro-step -/

/-- REBUILD, rule R94, the acceptance step: `BUSY <- 1; CUR <- 0`. -/
def execRebuild (s : State) : Host.Outcome State Fault Refusal :=
  .next { s with busy := true, cur := 0 }

/-- The index of the last entry a build writes (rules R93, R95). -/
def lastEntry : Byte := 254

/-- The swap of rule R39: `S[t] <- SH[t]` for all t in 0..254. -/
def swapIn (shadow sched : Memory) : Memory :=
  (List.range 255).foldl (fun m t => m.write t (shadow.read t)) sched

/-- `S[CUR] <- M(CUR)` (rule R95); with `STRICT_SWAP` it is `SH[CUR]` that is written, and the last micro-step also
swaps (rule R39). -/
def writeEntry (s : State) : State :=
  let mask := targetMask s.params s.b s.cur.toNat
  if s.params.strictSwap then
    let shadow := s.shadow.write s.cur.toNat mask
    { s with shadow := shadow, sched := if s.cur = lastEntry then swapIn shadow s.sched else s.sched }
  else
    { s with sched := s.sched.write s.cur.toNat mask }

/-- One build micro-step, rule R95: write entry `CUR`; if `CUR = 254` then `BUSY <- 0`; `CUR <- CUR + 1`. -/
def buildStep (s : State) : State :=
  let t := writeEntry s
  { t with busy := if s.cur = lastEntry then false else t.busy, cur := s.cur + 1 }

/-! ### The mask look-ups -/

/-- ONMASK, rule R98: `respond(S[t])`. -/
def execOnmask (t : Byte) (s : State) : Host.Outcome State Fault Refusal :=
  .next (s.respond (s.readS (phaseIndex t)))

/-- OFFMASK, rule R99: `respond(~S[t] & ~RESERVED_MASK)`. -/
def execOffmask (t : Byte) (s : State) : Host.Outcome State Fault Refusal :=
  .next (s.respond (offMask s.params (s.readS (phaseIndex t))))

end Sys2Proof.Machine
end

