-- ==== Sys2Proof/Machine/Dispatch.lean ====
section
/-! DEFINITION. One arm per command. -/

namespace Sys2Proof.Machine

def exec (i : Instr) (s : State) : Host.Outcome State Fault Refusal :=
  match i with
  | .get c => Sys2Proof.Machine.execGet c s
  | .set c v => Sys2Proof.Machine.execSet c v s
  | .adds c v => Sys2Proof.Machine.execAdds c v s
  | .addsAll v => Sys2Proof.Machine.execAddsAll v s
  | .subs c v => Sys2Proof.Machine.execSubs c v s
  | .subsAll v => Sys2Proof.Machine.execSubsAll v s
  | .addw c v => Sys2Proof.Machine.execAddw c v s
  | .addwAll v => Sys2Proof.Machine.execAddwAll v s
  | .subw c v => Sys2Proof.Machine.execSubw c v s
  | .subwAll v => Sys2Proof.Machine.execSubwAll v s
  | .rotl k => Sys2Proof.Machine.execRotl k s
  | .rotr k => Sys2Proof.Machine.execRotr k s
  | .rebuild => Sys2Proof.Machine.execRebuild s
  | .onmask t => Sys2Proof.Machine.execOnmask t s
  | .offmask t => Sys2Proof.Machine.execOffmask t s

end Sys2Proof.Machine
end

