-- ==== Sys2Proof/Machine/Driver.lean ====
section
/-! DEFINITION. The schedule driver (spec/42_schedule_driver.md): the frame step, the one event-driven operation. -/

namespace Sys2Proof.Machine

/-- FRAME, rule R110: acknowledge, advance the phase, read the Schedule at the new phase, emit the on-mask and the
off-mask. One atomic step of agent H. -/
def frameStep (s : State) : State :=
  let acknowledged := { s with fp := false, ph := s.ph + 1 }
  let on := acknowledged.readS acknowledged.ph.toNat
  acknowledged.emitPins on (offMask s.params on)

end Sys2Proof.Machine
end

