-- ==== Sys2Proof/Machine/Environment.lean ====
section
/-! DEFINITION. What the world outside the block does to it (spec/10_state.md rule R24, spec/60_exceptions.md rules
R122, R128, R132, R133): construction, the frame request, a word at the command port, the other user of the reserved
line. -/

namespace Sys2Proof

/-- A parameter set the block can be constructed with (rules R4, R5): `1 <= N <= 255`, `DEBUG_BIT <= 31`, 256 curve
entries, pin masks non-zero, pairwise distinct and clear of the reserved bit. -/
def Params.legal (p : Params) : Bool :=
  decide (1 ≤ p.n) && decide (p.n ≤ 255) && decide (p.debugBit ≤ 31) && decide (p.curve.length = 256)
    && p.pinMap.all (fun m => m != 0) && decide p.pinMap.Nodup
    && p.pinMap.all (fun m => m &&& p.reservedMask == 0)

end Sys2Proof

namespace Sys2Proof.Machine

/-- Construction, which is reset (rules R140, R141): an illegal parameter set is refused (rules R5, R121 CV3). The
spec leaves the reset value of `PINS` unspecified, so it is an argument. -/
def construct (p : Params) (pins0 : Word) : Host.Outcome State Fault Refusal :=
  if p.legal then .next (State.atReset p pins0) else .refused .illegalParams

/-- The frame timer sets `FP`; a request while one is pending merges with it (rules R20, R153, decision D16). -/
def raiseFrameRequest (s : State) : State := { s with fp := true }

/-- The host puts a word on the free command port (rule R50). -/
def presentCommand (s : State) (w : Word) : State := { s with port := some w }

/-- The other user of the reserved line drives bit `DEBUG_BIT` of `PINS` (rules R112, R132, U4). -/
def driveDebugLine (s : State) (level : Bool) : State :=
  { s with pins := (s.pins &&& ~~~s.params.reservedMask) ||| (if level then s.params.reservedMask else 0) }

/-- The environment settles `moves` as its next moves after those already settled. Every sequence of outside moves, an
endless one included, is a sequence of such supplies (rules R128, R148, assumption 4). -/
def State.supply (s : State) (moves : List EnvMove) : State := { s with env := s.env ++ moves }

/-- A word at the port, nothing that goes before it and the agents' turn next: the next step takes the word. -/
def stageCommand (s : State) (w : Word) : State :=
  { s with port := some w, busy := false, fp := false, env := .agents :: s.env }

end Sys2Proof.Machine
end

