-- ==== Sys2Proof/Machine/Agents.lean ====
section
/-! DEFINITION. The two agents and their priority (spec/00_scope.md rule R7, spec/20_memory.md rule R35,
spec/42_schedule_driver.md rule R114): one atomic step of the machine. -/

namespace Sys2Proof.Machine

/-- Agent L takes the word at the port, which is thereby accepted (rules R50, R51): a legal word is executed, a
reserved word is refused (rule R56). -/
def acceptCommand (s : State) (w : Word) : Host.Outcome State Fault Refusal :=
  match decode w with
  | .ok i => exec i { s with port := none }
  | .error _ => .refused (.reservedWord w)

/-- One step of agent L (rule R35): a build micro-step while `BUSY = 1` (a waiting word is held off, rule R51),
otherwise the waiting command. With no work the state stands still (assumption 6). -/
def agentLStep (s : State) : Host.Outcome State Fault Refusal :=
  if s.busy then .next (buildStep s)
  else match s.port with
    | some w => acceptCommand s w
    | none => .next s

/-- One step of the agents: a pending frame step goes before agent L (rules R114, R125, decision D17). -/
def agentStep (s : State) : Host.Outcome State Fault Refusal :=
  if s.fp then .next (frameStep s) else agentLStep s

/-- One step of the whole machine: the environment's next move, or one step of the agents (assumption 4). While the
port is occupied the host waits with its next word and the agents go on (rule R51). -/
def machineStep (s : State) : Host.Outcome State Fault Refusal :=
  match s.env with
  | [] => agentStep s
  | .agents :: rest => agentStep { s with env := rest }
  | .frameRequest :: rest => .next (raiseFrameRequest { s with env := rest })
  | .debugLine level :: rest => .next (driveDebugLine { s with env := rest } level)
  | .command w :: rest =>
    match s.port with
    | none => .next (presentCommand { s with env := rest } w)
    | some _ => agentStep s

end Sys2Proof.Machine
end

