-- ==== Sys2Proof/Machine/Step.lean ====
section
/-! DEFINITION. The step of the machine, and how one command word is placed so that the very next step runs it. -/

namespace Sys2Proof.Machine

/-- One atomic step (rule R35). -/
def step : State → Host.Outcome State Fault Refusal := machineStep

/-- `s` with the command word at the port and nothing that goes before it: no pending frame request, no build in
progress, and the agents' turn next, so that the next step accepts and runs the word (assumption 5). Bits of `w`
from `nbits` on are 0. -/
def State.withFetchWord (s : State) (nbits w : Nat) : State :=
  stageCommand s (BitVec.ofNat 32 (w % 2 ^ nbits))

end Sys2Proof.Machine
end

