-- ==== Sys2Proof/WellFormed.lean ====
section
/-! DEFINITION. Which commands are inside their operation's valid input domain for a block of `n` channels
(spec/20_memory.md rule R44, spec/60_exceptions.md rule R121 CV1). Every operand has an encoding, so this is a
check of the value, not of the word. -/

namespace Sys2Proof

/-- The channel index of a command that has one (rule R121 CV1 lists the six). -/
def Instr.channel? : Instr → Option Byte
  | .get i => some i
  | .set i _ => some i
  | .adds i _ => some i
  | .addsAll _ => none
  | .subs i _ => some i
  | .subsAll _ => none
  | .addw i _ => some i
  | .addwAll _ => none
  | .subw i _ => some i
  | .subwAll _ => none
  | .rotl _ => none
  | .rotr _ => none
  | .rebuild => none
  | .onmask _ => none
  | .offmask _ => none

/-- A command is well formed for `n` channels when its channel index, if it has one, is below `n`. -/
def Instr.wellFormed (n : Nat) (c : Instr) : Bool :=
  match c.channel? with
  | some i => decide (i.toNat < n)
  | none => true

end Sys2Proof
end

