-- ==== Sys2Proof/Safety.lean ====
section
/-! DEFINITION. The terms claims are stated in: the named premises of spec/70_reset_and_hazards.md rule R144, the
invariant of the machine, a fresh Schedule, a build in progress, and a host that keeps its contract. -/

namespace Sys2Proof

/-- The commands of spec/40_brightness_ops.md (rule R70): all but REBUILD, ONMASK and OFFMASK. -/
def Instr.isBrightness : Instr → Bool
  | .get _ => true
  | .set _ _ => true
  | .adds _ _ => true
  | .addsAll _ => true
  | .subs _ _ => true
  | .subsAll _ => true
  | .addw _ _ => true
  | .addwAll _ => true
  | .subw _ _ => true
  | .subwAll _ => true
  | .rotl _ => true
  | .rotr _ => true
  | .rebuild => false
  | .onmask _ => false
  | .offmask _ => false

/-- The commands that return data (rule R57). -/
def Instr.responds : Instr → Bool
  | .get _ => true
  | .set _ _ => false
  | .adds _ _ => false
  | .addsAll _ => false
  | .subs _ _ => false
  | .subsAll _ => false
  | .addw _ _ => false
  | .addwAll _ => false
  | .subw _ _ => false
  | .subwAll _ => false
  | .rotl _ => false
  | .rotr _ => false
  | .rebuild => false
  | .onmask _ => true
  | .offmask _ => true

/-- The commands that may write a brightness register (rule R10). -/
def Instr.writesB (c : Instr) : Bool := c.isBrightness && !c.responds

/-! ### Premises on the parameters (rule R144) -/

/-- `DisjointPins`: no two channels share an output line. -/
def Params.DisjointPins (p : Params) : Prop :=
  ∀ i j, i < p.n → j < p.n → i ≠ j → p.pin i &&& p.pin j = 0

/-- `CurveZero`: the curve maps 0 to 0. -/
def Params.CurveZero (p : Params) : Prop := p.curveAt 0 = 0

/-- The number of set bits of a mask (spec/00_scope.md section 7). -/
def popcount (m : Word) : Nat := (List.range 32).countP (fun n => m.getLsbD n)

end Sys2Proof

namespace Sys2Proof.Machine

/-- Every entry of the memory is clear of the bits of `mask`. -/
def Memory.ClearOf (mask : Word) (m : Memory) : Prop := ∀ t, m.read t &&& mask = 0

/-- The array a build writes: `S`, or `SH` with `STRICT_SWAP` (rules R36, R39). -/
def State.activeArray (s : State) : Memory := if s.params.strictSwap then s.shadow else s.sched

/-- The invariant of the machine: a legal parameter set, N brightness registers, both arrays in canonical form and
clear of the reserved bit, `S[255] = 0` (rule R15), and in a build the cursor in 0..254 with every entry below it
already holding its target mask (rules R19, R37). -/
structure State.Inv (s : State) : Prop where
  legal : s.params.legal = true
  sized : s.b.length = s.params.n
  schedWf : s.sched.wf = true
  shadowWf : s.shadow.wf = true
  lastZero : s.readS 255 = 0
  schedClear : s.sched.ClearOf s.params.reservedMask
  shadowClear : s.shadow.ClearOf s.params.reservedMask
  cursor : s.busy = true → s.cur.toNat ≤ 254
  built : s.busy = true → ∀ t, t < s.cur.toNat → s.activeArray.read t = targetMask s.params s.b t

/-- The Schedule is not stale (rule R15): every entry is the target mask of the current store. -/
def State.Fresh (s : State) : Prop := ∀ t, t < 256 → s.readS t = targetMask s.params s.b t

/-- The array of a build in progress that found the Schedule `old` (rule R37): new masks below the cursor, old
entries from it on. -/
def State.MidBuild (old : Memory) (s : State) : Prop :=
  ∀ t, t < 256 → s.readS t = if t < s.cur.toNat then targetMask s.params s.b t else old.read t

/-- No agent has a step (rule R152). -/
def State.Quiescent (s : State) : Prop := s.busy = false ∧ s.port = none ∧ s.fp = false

/-- It is the agents' turn, with `rest` the environment's moves after this step: the environment has no move left,
gives them the turn, or waits with its word at the occupied port. -/
def State.AgentsTurn (s : State) (rest : List EnvMove) : Prop :=
  (s.env = [] ∧ rest = []) ∨ s.env = .agents :: rest ∨
    (s.port ≠ none ∧ rest = s.env ∧ ∃ w more, s.env = .command w :: more)

/-- A word that decodes to a command inside its valid input domain for `n` channels. -/
def LegalWord (n : Nat) (w : Word) : Prop := ∃ c, decode w = .ok c ∧ c.wellFormed n = true

/-- `HostLegal` (rule R144): every word the host holds or has yet to send is legal, its channel index below N. -/
def State.HostLegal (s : State) : Prop :=
  (∀ w, s.port = some w → LegalWord s.params.n w) ∧ ∀ w, .command w ∈ s.env → LegalWord s.params.n w

/-- The frame timer is disabled (rule R135): no request is pending and none will be raised. -/
def State.FrameTimerOff (s : State) : Prop := s.fp = false ∧ .frameRequest ∉ s.env

/-- `t` is `s` but for the brightness store, in which channel `i` holds the value `v` and every other channel is as
before (the effect of rules R73, R74, R76, R78, R82). -/
def State.ChannelWrite (s t : State) (i v : Nat) : Prop :=
  t = { s with b := t.b } ∧ t.b.length = s.b.length ∧ (t.readB i).toNat = v ∧
    ∀ j, j < s.params.n → j ≠ i → t.readB j = s.readB j

/-- `t` is `s` but for the brightness store, in which every channel `j` holds the value `f j` (the effect of rules
R75, R77, R79, R80, R81, R83). -/
def State.StoreWrite (s t : State) (f : Nat → Nat) : Prop :=
  t = { s with b := t.b } ∧ t.b.length = s.b.length ∧ ∀ j, j < s.params.n → (t.readB j).toNat = f j

/-- The store has one register per channel (rules R10, R11). -/
def State.Sized (s : State) : Prop := s.b.length = s.params.n

/-! ### Endless runs and the fairness of agent L (rule R148) -/

/-- Agent L has work: a build in progress or a word waiting at the port (rule R125). A pending frame request only puts
the work off, so it does not count against being enabled: that is what fairness has to bound (assumption 16). -/
def State.AgentLEnabled (s : State) : Prop := s.busy = true ∨ s.port ≠ none

/-- The next step of the machine is a step of agent L: it is the agents' turn, no frame step goes first, L has work. -/
def State.AgentLSteps (s : State) : Prop := (∃ rest, s.AgentsTurn rest) ∧ s.fp = false ∧ s.AgentLEnabled

/-- An infinite run: before step `k` the environment supplies the moves `input k`, which may be endlessly many over
the run. -/
def EndlessRun (input : Nat → List EnvMove) (run : Nat → State) : Prop :=
  ∀ k, step ((run k).supply (input k)) = .next (run (k + 1))

/-- `FairL` (rules R144, R148): if agent L is enabled from some point on, it steps infinitely often. -/
def FairL (input : Nat → List EnvMove) (run : Nat → State) : Prop :=
  (∃ n, ∀ k, n ≤ k → (run k).AgentLEnabled) → ∀ n, ∃ k, n ≤ k ∧ ((run k).supply (input k)).AgentLSteps

/-- `k` build micro-steps. -/
def buildSteps : Nat → State → State
  | 0, s => s
  | k + 1, s => buildSteps k (buildStep s)

/-- Commands executed one after another, each to completion before the next (rule R50). -/
def execList : List Instr → State → Host.Outcome State Fault Refusal
  | [], s => .next s
  | c :: cs, s =>
    match exec c s with
    | .next t => execList cs t
    | .fault f => .fault f
    | .refused r => .refused r

/-- The environment of `k` frame periods: a frame request and then the agents' turn, `k` times. -/
def framePeriods : Nat → List EnvMove
  | 0 => []
  | k + 1 => .frameRequest :: .agents :: framePeriods k

end Sys2Proof.Machine
end

