-- ==== Sys2Proof/Certificates/Slice0/Obligations.lean ====
section
/-! DEFINITION. The statements about the machine, for the provers. Each names the rule it comes from; a statement that
rests on a decision or a derivation of the spec, or on a choice of the model, says so. -/

open Sys2Proof Sys2Proof.Machine

/-! ## Construction and reset -/

/-- Rule R141 (gathered by the spec from its decisions D6, D7, D29): constructing a legal parameter set leaves the
reset state, whatever `PINS` holds. The input list and the records being empty is the model's own (assumptions 4, 7). -/
def Obligations.ConstructionLeavesTheResetState : Prop :=
  ∀ (p : Params) (pins0 : Word), p.legal = true → ∃ t, construct p pins0 = .next t ∧ t.params = p ∧
    t.b.length = p.n ∧ (∀ i, i < p.n → t.readB i = 0) ∧ (∀ k, k < 256 → t.readS k = 0) ∧ t.ph = 0 ∧ t.busy = false ∧
    t.cur = 0 ∧ t.fp = false ∧ t.pins = pins0 ∧ t.port = none ∧ t.env = [] ∧ t.responses = [] ∧ t.pinEvents = []

/-- The model's choice (assumptions 2 and 3): `State.reset` is what constructing the reference parameter set answers. -/
def Obligations.ResetIsTheConstructedReference : Prop :=
  construct Params.reference 0 = .next State.reset ∧ Params.reference.n = 19

/-- Rule R5: a parameter set that breaks (a), (b) or (c) is refused; (d) no step changes the parameters; masks need
not be disjoint. -/
def Obligations.IllegalParameterSetsAreRefused : Prop :=
  (∀ (p : Params) (pins0 : Word),
    ((∃ i, i < p.n ∧ p.pin i = 0) ∨ (∃ i j, i < p.n ∧ j < p.n ∧ i ≠ j ∧ p.pin i = p.pin j) ∨
      (∃ i, i < p.n ∧ p.pin i &&& p.reservedMask ≠ 0)) →
    construct p pins0 = .refused .illegalParams) ∧
  (∀ s t : State, step s = .next t → t.params = s.params) ∧
  (∃ (p : Params) (t : State), construct p 0 = .next t ∧ ¬ p.DisjointPins)

/-- Every constructed state satisfies the machine's invariant, and so does `State.reset`; that `State.reset` is built
from test configuration T0 with `PINS` 0 is the model's choice (assumptions 2 and 3). -/
def Obligations.ResetSatisfiesTheMachineInvariant : Prop :=
  (∀ (p : Params) (pins0 : Word), p.legal = true → (State.atReset p pins0).Inv) ∧ State.reset.Inv

/-- Rule R141, last sentence (derived there; R15 case (c)): the reset Schedule is the built Schedule of the reset store
with the perceptual stage off, and with it on exactly when the curve maps 0 to 0. -/
def Obligations.ResetScheduleIsFreshUnlessTheCurveLightsZero : Prop :=
  ∀ (p : Params) (pins0 : Word), p.legal = true →
    ((State.atReset p pins0).Fresh ↔ (p.useCurve = true → p.CurveZero))

/-- Rule R142 (derived there; decisions D6, D7): reset emits no event; the first frame step arrives at phase 1 and
commands every non-reserved line deasserted. -/
def Obligations.FirstFrameAfterResetDeassertsEveryLine : Prop :=
  ∀ (p : Params) (pins0 : Word), (State.atReset p pins0).pinEvents = [] ∧
    ∃ t, Sys2Proof.core.run 2 { State.atReset p pins0 with env := framePeriods 1 } = .next t ∧ t.ph = 1 ∧
      t.pinEvents = [⟨0, ~~~p.reservedMask⟩]

/-! ## Encoding -/

/-- Rule R62 (derived there): decoding the word of a command gives the command back. -/
def Obligations.EveryCommandDecodesBack : Prop :=
  ∀ c : Instr, decode (encode c) = .ok c

/-- Rule R62 (derived there): encoding what a legal word decodes to gives the word back. -/
def Obligations.EveryLegalWordEncodesBack : Prop :=
  ∀ (w : Word) (c : Instr), decode w = .ok c → encode c = w

/-- Rules R55, R56 (decisions D12, D13): the field-by-field decoder accepts exactly the words that match a row of the
opcode map, and gives the command of that row. -/
def Obligations.DecoderAcceptsExactlyTheOpcodeMap : Prop :=
  ∀ w : Word, ((∃ c, decode w = .ok c) ↔ ∃ r ∈ opcodeTable, r.hits w = true) ∧
    ∀ c, decode w = .ok c → ∀ r ∈ opcodeTable, (r.hits w = true ↔ r.mnemonic = mnemonicOf c)

/-- One word of each format, written out from rules R52, R55 and R59, and one reserved word of each clause of R56. -/
def Obligations.SampleWordsDecodeAsTheSpecSays : Prop :=
  decode 0x10001200 = .ok (.get 18) ∧ decode 0x200003FA = .ok (.set 3 250) ∧ decode 0x38000080 = .ok (.addsAll 128) ∧
  decode 0x90000000 = .ok .rebuild ∧ decode 0xB0007F00 = .ok (.offmask 127) ∧ decode 0x00000000 = .error .opcode ∧
  decode 0x20010000 = .error .zero ∧ decode 0x18000000 = .error .allForm ∧ decode 0x38000100 = .error .idx ∧
  decode 0x10000001 = .error .val

/-! ## The steps of the machine -/

/-- Rules R50, R51 (decision D11): on the agents' turn, with no frame request pending and no build in progress, the
step takes the word at the port and is the command it decodes to. The input list is the model's (assumption 4). -/
def Obligations.StepRunsTheDecodedCommand : Prop :=
  ∀ (s : State) (rest : List EnvMove) (w : Word) (c : Instr), s.AgentsTurn rest → s.fp = false → s.busy = false →
    s.port = some w → decode w = .ok c → step s = exec c { s with env := rest, port := none }

/-- The model's staging of a word (assumption 5): the very next step runs it, in the state with no pending request
and no build. -/
def Obligations.StagedWordRunsNext : Prop :=
  ∀ (s : State) (w : Word) (c : Instr), decode w = .ok c →
    step (s.withFetchWord 32 w.toNat) = exec c { s with port := none, busy := false, fp := false }

/-- Rules R56, R121 CV2 (decision D13): a word that matches no row of the opcode map is refused when it is taken. -/
def Obligations.ReservedWordsAreRefused : Prop :=
  ∀ (s : State) (rest : List EnvMove) (w : Word), s.AgentsTurn rest → s.fp = false → s.busy = false →
    s.port = some w → (∀ r ∈ opcodeTable, r.hits w = false) → step s = .refused (.reservedWord w)

/-- Rules R114, R124, R125 (decision D17): with a frame request pending, the agents' step is the frame step, whatever
agent L has to do. -/
def Obligations.PendingFrameRequestGoesFirst : Prop :=
  ∀ (s : State) (rest : List EnvMove), s.AgentsTurn rest → s.fp = true →
    step s = .next (frameStep { s with env := rest })

/-- Rules R51, R95 (decisions D8, D11): during a build agent L takes a micro-step, and a waiting word is neither lost
nor executed. -/
def Obligations.BuildHoldsTheCommandPortOff : Prop :=
  ∀ (s : State) (rest : List EnvMove), s.AgentsTurn rest → s.fp = false → s.busy = true →
    ∃ t, step s = .next t ∧ t = buildStep { s with env := rest } ∧ t.port = s.port ∧ t.b = s.b ∧
      t.responses = s.responses

/-- Rule R152 (decision D27) and the model's choice (assumption 6): on the agents' turn a quiescent state stands
still. -/
def Obligations.QuiescentStateStandsStill : Prop :=
  ∀ (s : State) (rest : List EnvMove), s.AgentsTurn rest → s.Quiescent → step s = .next { s with env := rest }

/-- Rules R20, R153 (decision D16) and R50: a frame request sets `FP`, a second one before service merges with it;
a word is put on the free port. The input list is the model's (assumption 4). -/
def Obligations.EnvironmentMovesLand : Prop :=
  ∀ (s : State) (rest : List EnvMove),
    (s.env = .frameRequest :: rest → step s = .next { s with env := rest, fp := true }) ∧
    (s.env = .frameRequest :: .frameRequest :: rest →
      Sys2Proof.core.run 2 s = .next { s with env := rest, fp := true }) ∧
    (∀ w, s.env = .command w :: rest → s.port = none → step s = .next { s with env := rest, port := some w })

/-- Rules R132, U4 (decision D19): the other user of the reserved line moves bit `DEBUG_BIT` of `PINS` and nothing
else. -/
def Obligations.DebugLineMovesOnlyTheReservedBit : Prop :=
  ∀ (s : State) (rest : List EnvMove) (level : Bool), s.params.debugBit < 32 → s.env = .debugLine level :: rest →
    ∃ t, step s = .next t ∧ t = { s with env := rest, pins := t.pins } ∧
      t.pins &&& ~~~s.params.reservedMask = s.pins &&& ~~~s.params.reservedMask ∧
      t.pins.getLsbD s.params.debugBit = level

/-! ## Brightness arithmetic and commands -/

/-- Rule R84: the four results, for all 8-bit operands. -/
def Obligations.ArithmeticPolicies : Prop :=
  ∀ x y : Byte, (addSat x y).toNat = min 255 (x.toNat + y.toNat) ∧
    ((subSat x y).toNat : Int) = max 0 ((x.toNat : Int) - y.toNat) ∧
    (addWrap x y).toNat = (x.toNat + y.toNat) % 256 ∧
    ((subWrap x y).toNat : Int) = ((x.toNat : Int) - y.toNat) % 256

/-- Rule R85 (derived there): the laws of the four policies. -/
def Obligations.ArithmeticLaws : Prop :=
  ∀ x y : Byte, addSat x 0 = x ∧ subSat x 0 = x ∧ addWrap x 0 = x ∧ subWrap x 0 = x ∧ addSat x 255 = 255 ∧
    subSat x 255 = 0 ∧ addSat 255 y = 255 ∧ subSat 0 y = 0 ∧
    (addSat x y = addWrap x y ↔ x.toNat + y.toNat ≤ 255) ∧ (subSat x y = subWrap x y ↔ y.toNat ≤ x.toNat) ∧
    subWrap (addWrap x y) y = x ∧ addWrap (subWrap x y) y = x ∧
    (subSat (addSat x y) y = x ↔ x.toNat + y.toNat ≤ 255) ∧
    addWrap x y = subWrap x (BitVec.ofNat 8 ((256 - y.toNat) % 256))

/-- Rule R72, GET: its word, its response (the stored brightness, zero-extended), nothing else written, and the
contract violation; after reset it responds 0. -/
def Obligations.GetRespondsWithTheStoredBrightness : Prop :=
  ∀ (i : Byte) (s : State),
    decode (0x10000000 ||| i.setWidth 32 <<< 8) = .ok (.get i) ∧
    (i.toNat < s.params.n →
      exec (.get i) s = .next { s with responses := s.responses ++ [(s.readB i.toNat).setWidth 32] }) ∧
    (s.params.n ≤ i.toNat → exec (.get i) s = .fault (.indexRange i)) ∧
    ∀ (p : Params) (pins0 : Word), i.toNat < p.n →
      exec (.get i) (State.atReset p pins0) = .next { State.atReset p pins0 with responses := [0] }

/-- Rule R73, SET. -/
def Obligations.SetWritesOneRegister : Prop :=
  ∀ (i v : Byte) (s : State),
    decode (0x20000000 ||| i.setWidth 32 <<< 8 ||| v.setWidth 32) = .ok (.set i v) ∧
    (s.Sized → i.toNat < s.params.n →
      ∃ t, exec (.set i v) s = .next t ∧ s.ChannelWrite t i.toNat v.toNat ∧ (s.readB i.toNat = v → t = s)) ∧
    (s.params.n ≤ i.toNat → exec (.set i v) s = .fault (.indexRange i))

/-- Rule R74, ADDS: `B[i] <- min(255, B[i] + v)`. -/
def Obligations.AddsClampsOneRegister : Prop :=
  ∀ (i v : Byte) (s : State),
    decode (0x30000000 ||| i.setWidth 32 <<< 8 ||| v.setWidth 32) = .ok (.adds i v) ∧
    (s.Sized → i.toNat < s.params.n →
      ∃ t, exec (.adds i v) s = .next t ∧ s.ChannelWrite t i.toNat (min 255 ((s.readB i.toNat).toNat + v.toNat))) ∧
    (s.params.n ≤ i.toNat → exec (.adds i v) s = .fault (.indexRange i))

/-- Rule R76, SUBS: `B[i] <- max(0, B[i] - v)`. -/
def Obligations.SubsClampsOneRegister : Prop :=
  ∀ (i v : Byte) (s : State),
    decode (0x40000000 ||| i.setWidth 32 <<< 8 ||| v.setWidth 32) = .ok (.subs i v) ∧
    (s.Sized → i.toNat < s.params.n →
      ∃ t, exec (.subs i v) s = .next t ∧
        s.ChannelWrite t i.toNat (max 0 (((s.readB i.toNat).toNat : Int) - v.toNat)).toNat) ∧
    (s.params.n ≤ i.toNat → exec (.subs i v) s = .fault (.indexRange i))

/-- Rule R78, ADDW: `B[i] <- (B[i] + v) mod 256`. -/
def Obligations.AddwWrapsOneRegister : Prop :=
  ∀ (i v : Byte) (s : State),
    decode (0x50000000 ||| i.setWidth 32 <<< 8 ||| v.setWidth 32) = .ok (.addw i v) ∧
    (s.Sized → i.toNat < s.params.n →
      ∃ t, exec (.addw i v) s = .next t ∧ s.ChannelWrite t i.toNat (((s.readB i.toNat).toNat + v.toNat) % 256)) ∧
    (s.params.n ≤ i.toNat → exec (.addw i v) s = .fault (.indexRange i))

/-- Rule R82, SUBW: `B[i] <- (B[i] - v) mod 256`, the non-negative remainder. -/
def Obligations.SubwWrapsOneRegister : Prop :=
  ∀ (i v : Byte) (s : State),
    decode (0x60000000 ||| i.setWidth 32 <<< 8 ||| v.setWidth 32) = .ok (.subw i v) ∧
    (s.Sized → i.toNat < s.params.n →
      ∃ t, exec (.subw i v) s = .next t ∧
        s.ChannelWrite t i.toNat ((((s.readB i.toNat).toNat : Int) - v.toNat) % 256).toNat) ∧
    (s.params.n ≤ i.toNat → exec (.subw i v) s = .fault (.indexRange i))

/-- Rules R75, R77, R79, R83 (decisions D12, D23): the four all-channels forms. -/
def Obligations.AllChannelFormsUpdateEveryRegister : Prop :=
  ∀ (v : Byte) (s : State), s.Sized →
    (∃ t, exec (.addsAll v) s = .next t ∧ s.StoreWrite t fun j => min 255 ((s.readB j).toNat + v.toNat)) ∧
    (∃ t, exec (.subsAll v) s = .next t ∧
      s.StoreWrite t fun j => (max 0 (((s.readB j).toNat : Int) - v.toNat)).toNat) ∧
    (∃ t, exec (.addwAll v) s = .next t ∧ s.StoreWrite t fun j => ((s.readB j).toNat + v.toNat) % 256) ∧
    (∃ t, exec (.subwAll v) s = .next t ∧
      s.StoreWrite t fun j => ((((s.readB j).toNat : Int) - v.toNat) % 256).toNat)

/-- Rule R80 (decision D15 fixes the direction): ROTL k gives channel j the value of channel `(j + k) mod N`. -/
def Obligations.RotlMovesValuesTowardLowerIndices : Prop :=
  ∀ (k : Byte) (s : State), s.Sized →
    ∃ t, exec (.rotl k) s = .next t ∧ s.StoreWrite t fun j => (s.readB ((j + k.toNat) % s.params.n)).toNat

/-- Rule R81 (decision D15 fixes the direction): ROTR k gives channel `(j + k) mod N` the value of channel j. -/
def Obligations.RotrMovesValuesTowardHigherIndices : Prop :=
  ∀ (k : Byte) (s : State), s.Sized →
    ∃ t, exec (.rotr k) s = .next t ∧
      (s.StoreWrite t fun j => (s.readB ((j + s.params.n - k.toNat % s.params.n) % s.params.n)).toNat) ∧
      ∀ j, j < s.params.n → t.readB ((j + k.toNat) % s.params.n) = s.readB j

/-- The document's rotation property (quoted in rule R81; it does not depend on decision D15): left then right by k,
and right then left, restore the state. -/
def Obligations.RotationsUndoEachOther : Prop :=
  ∀ (k : Byte) (s : State), s.Sized →
    execList [.rotl k, .rotr k] s = .next s ∧ execList [.rotr k, .rotl k] s = .next s

/-- Rule R11: no command changes the number of channels or any channel's pin mask, and a rotation moves the values
among the channels: the store after it is a permutation of the store before. -/
def Obligations.ChannelsStayInPlace : Prop :=
  ∀ (c : Instr) (s t : State), s.Sized → exec c s = .next t →
    t.b.length = s.b.length ∧ t.params = s.params ∧
      ((∃ k, c = .rotl k) ∨ (∃ k, c = .rotr k) → t.b.Perm s.b)

/-- Corner case of rule R79: ADDW.ALL v then SUBW.ALL v restores the state, and the reverse order too (R85). -/
def Obligations.WrappingFormsUndoEachOther : Prop :=
  ∀ (v : Byte) (s : State),
    execList [.addwAll v, .subwAll v] s = .next s ∧ execList [.subwAll v, .addwAll v] s = .next s

/-- Corner case of rule R77: `ceil(255 / v)` or more times SUBS.ALL v, with `v >= 1`, leaves every register 0. -/
def Obligations.RepeatedFadeReachesZero : Prop :=
  ∀ (v : Byte) (s : State) (m : Nat), s.Sized → 1 ≤ v.toNat → (255 + v.toNat - 1) / v.toNat ≤ m →
    ∃ t, execList (List.replicate m (.subsAll v)) s = .next t ∧ s.StoreWrite t fun _ => 0

/-- Rule R10: N registers, all 0 after reset; each can hold every value; a step changes the store only by a command
that writes brightness; GET and the build (through `eff`) read it; the frame step neither reads nor writes it. -/
def Obligations.OnlyBrightnessCommandsWriteTheStore : Prop :=
  (∀ (p : Params) (pins0 : Word), (State.atReset p pins0).b.length = p.n ∧
    ∀ i, i < p.n → (State.atReset p pins0).readB i = 0) ∧
  (∀ (i v : Byte) (s : State), s.Sized → i.toNat < s.params.n →
    ∃ t, exec (.set i v) s = .next t ∧ t.readB i.toNat = v) ∧
  (∀ s t : State, step s = .next t → t.b ≠ s.b →
    s.busy = false ∧ ∃ w c, s.port = some w ∧ decode w = .ok c ∧ c.writesB = true) ∧
  (∀ (i : Byte) (s : State), i.toNat < s.params.n →
    exec (.get i) s = .next { s with responses := s.responses ++ [(s.readB i.toNat).setWidth 32] }) ∧
  (∀ (s : State) (i : Nat), effAt s.params s.b i = effective s.params (s.readB i)) ∧
  (∀ (s : State) (b' : List Byte), frameStep { s with b := b' } = { frameStep s with b := b' })

/-- Rule R70: a brightness command writes only brightness registers and, for GET, gives one response; it faults
exactly on a channel index from N on; while a build runs no step changes the store or responds. -/
def Obligations.BrightnessCommandsHaveNoSideEffects : Prop :=
  (∀ (c : Instr) (s t : State), c.isBrightness = true → exec c s = .next t →
    t = { s with b := t.b, responses := t.responses } ∧ (∀ k, t.readS k = s.readS k) ∧
      (∀ i, c = .get i → t.responses = s.responses ++ [(s.readB i.toNat).setWidth 32]) ∧
      ((∀ i, c ≠ .get i) → t.responses = s.responses)) ∧
  (∀ (c : Instr) (s : State) (i : Byte), c.isBrightness = true →
    (exec c s = .fault (.indexRange i) ↔ c.channel? = some i ∧ s.params.n ≤ i.toNat)) ∧
  (∀ s t : State, s.busy = true → step s = .next t → t.b = s.b ∧ t.responses = s.responses)

/-- The ownership of rule R21 for all commands: what no command writes, and that only REBUILD touches `BUSY` and
`CUR`, only GET, ONMASK and OFFMASK respond, only the eleven writing commands of rule R10 touch the store; every entry of
the Schedule reads as before. -/
def Obligations.CommandsWriteOnlyWhatTheyOwn : Prop :=
  ∀ (c : Instr) (s t : State), exec c s = .next t →
    t = { s with b := t.b, responses := t.responses, busy := t.busy, cur := t.cur } ∧
      (∀ k, t.readS k = s.readS k) ∧ (c ≠ .rebuild → t.busy = s.busy ∧ t.cur = s.cur) ∧
      (c.writesB = false → t.b = s.b) ∧
      (if c.responds then ∃ v, t.responses = s.responses ++ [v] else t.responses = s.responses)

/-- Rules R44, R121 CV1 (decision D14): a command completes exactly when its channel index, if it has one, is below
N, and otherwise faults with that index; no command is refused. -/
def Obligations.CommandsCompleteExactlyInTheirDomain : Prop :=
  ∀ (c : Instr) (s : State),
    (c.wellFormed s.params.n = true → ∃ t, exec c s = .next t) ∧
    (c.wellFormed s.params.n = false → ∃ i, c.channel? = some i ∧ exec c s = .fault (.indexRange i))

/-- The host cannot see the frame level (rules R26, R70 (b)): a command's effect does not depend on `PH`, `FP`,
`PINS` or the events emitted. -/
def Obligations.FrameLevelIsInvisibleToCommands : Prop :=
  ∀ (c : Instr) (s t : State) (ph : Byte) (fp : Bool) (pins : Word) (evs : List PinEvent), exec c s = .next t →
    exec c { s with ph := ph, fp := fp, pins := pins, pinEvents := evs } =
      .next { t with ph := ph, fp := fp, pins := pins, pinEvents := evs }

/-! ## The builder and the look-ups -/

/-- Rule R91: line n is in `M(t)` exactly when some channel that owns it has an effective brightness strictly
greater than t; `M(t)` is 0 when no channel has; `full_mask` is the mask of all channels. -/
def Obligations.TargetMaskIsTheOrOfBrighterChannels : Prop :=
  ∀ (p : Params) (b : List Byte) (t : Nat),
    (∀ n, (targetMask p b t).getLsbD n = true ↔
      ∃ i, i < p.n ∧ t < (effAt p b i).toNat ∧ (p.pin i).getLsbD n = true) ∧
    ((∀ i, i < p.n → (effAt p b i).toNat ≤ t) → targetMask p b t = 0) ∧
    (∀ n, (fullMask p).getLsbD n = true ↔ ∃ i, i < p.n ∧ (p.pin i).getLsbD n = true)

/-- Rule R100 (derived there), clauses (a) to (d): the last mask is 0, masks shrink as t grows, none holds the
reserved bit, each is within `full_mask`. -/
def Obligations.TargetMasksShrinkAndAvoidTheReservedBit : Prop :=
  ∀ (p : Params) (b : List Byte), targetMask p b 255 = 0 ∧
    (∀ t, targetMask p b (t + 1) &&& ~~~targetMask p b t = 0 ∧
      popcount (targetMask p b (t + 1)) ≤ popcount (targetMask p b t)) ∧
    (p.legal = true → ∀ t, targetMask p b t &&& p.reservedMask = 0) ∧
    ∀ t, targetMask p b t &&& ~~~fullMask p = 0

/-- Rule R93 (derived there from R91, R92): the document's threshold algorithm makes exactly the writes
`S[t] <- M(t)` for t from 0 to 254, each once, in ascending order. -/
def Obligations.DocumentAlgorithmWritesTheTargetMasks : Prop :=
  ∀ (p : Params) (b : List Byte), documentWrites p b = (List.range 255).map fun t => (t, targetMask p b t)

/-- Rule R94, the acceptance step of REBUILD (decisions D8, D12). -/
def Obligations.RebuildStartsABuild : Prop :=
  decode 0x90000000 = .ok .rebuild ∧ ∀ s : State, exec .rebuild s = .next { s with busy := true, cur := 0 }

/-- Rule R95 (decision D8): a micro-step writes entry `CUR` with its target mask and no other entry, advances `CUR`,
and clears `BUSY` exactly at `CUR = 254`; nothing else changes. `STRICT_SWAP` is false (decision D10). -/
def Obligations.MicroStepWritesOneEntry : Prop :=
  ∀ s : State, s.Inv → s.params.strictSwap = false → s.busy = true →
    ∃ t, agentLStep s = .next t ∧ t = { s with sched := t.sched, busy := t.busy, cur := t.cur } ∧
      (∀ k, t.readS k = if k = s.cur.toNat then targetMask s.params s.b k else s.readS k) ∧
      t.cur.toNat = s.cur.toNat + 1 ∧ (t.busy = false ↔ s.cur.toNat = 254)

/-- Rule R96: a build is exactly 255 micro-steps, none of which can fail, and leaves `S[t] = M(t)` for all t in
0..255, with M taken at the store the REBUILD found; no step of the machine in a build stops, and none but the
micro-step at `CUR = 254` ends the build; the Schedule stays so until the store changes or a new build starts. -/
def Obligations.BuildCompletesAfter255MicroSteps : Prop :=
  (∀ s t0 : State, s.Inv → exec .rebuild s = .next t0 →
    (∀ k, k < 255 → (buildSteps k t0).busy = true ∧
      agentLStep (buildSteps k t0) = .next (buildSteps (k + 1) t0)) ∧
    (buildSteps 255 t0).busy = false ∧ (buildSteps 255 t0).b = s.b ∧
    ∀ t, t < 256 → (buildSteps 255 t0).readS t = targetMask s.params s.b t) ∧
  (∀ s : State, s.busy = true → ∃ t, step s = .next t ∧ (t.busy = false → s.cur = 254)) ∧
  (∀ s t : State, s.Fresh → s.busy = false → step s = .next t → t.b = s.b → t.Fresh)

/-- Rule R103: the document's testable properties of a completed build, with and without the perceptual stage. -/
def Obligations.CompletedBuildHasTheTestableProperties : Prop :=
  ∀ s t0 : State, s.Inv → exec .rebuild s = .next t0 →
    (∀ t n, t < 256 → (((buildSteps 255 t0).readS t).getLsbD n = true ↔
      ∃ i, i < s.params.n ∧ (s.params.pin i).getLsbD n = true ∧
        t < (if s.params.useCurve then s.params.curveAt (s.readB i) else s.readB i).toNat)) ∧
    (buildSteps 255 t0).readS 255 = 0 ∧
    ∀ t, t < 255 → popcount ((buildSteps 255 t0).readS (t + 1)) ≤ popcount ((buildSteps 255 t0).readS t)

/-- Rules R36, R37 (derived there; decisions D8, D9, D10): from the acceptance of a REBUILD on, whatever steps the
machine takes during the build, the array is `M` below the cursor and the old Schedule from it on, and each frame
step emits the old or the new mask of its phase. -/
def Obligations.BuildInProgressMixesOldAndNewEntries : Prop :=
  (∀ s t : State, exec .rebuild s = .next t → t.MidBuild s.sched) ∧
  ∀ (old : Memory) (s t : State), s.Inv → s.params.strictSwap = false → s.busy = true → s.MidBuild old →
    step s = .next t → t.MidBuild old ∧ t.b = s.b ∧
      (t.pinEvents = s.pinEvents ∨ ∃ e, t.pinEvents = s.pinEvents ++ [e] ∧
        e.on = if t.ph.toNat < s.cur.toNat then targetMask s.params s.b t.ph.toNat else old.read t.ph.toNat)

/-- Rules R51, R96: from any state of a build, whatever moves the environment has settled, the build ends without a
fault within a bounded number of steps, with the Schedule fresh, if no further moves are supplied; endless runs and
fairness are in `FairAgentLMakesProgress` (assumptions 4 and 16). -/
def Obligations.EveryBuildEnds : Prop :=
  ∀ s : State, s.Inv → s.busy = true →
    ∃ k t, k ≤ 2 * s.env.length + 256 ∧ Sys2Proof.core.run k s = .next t ∧ t.busy = false ∧ t.b = s.b ∧ t.Fresh

/-- Rule R39 (the flagged alternative `STRICT_SWAP = true`): a build leaves every entry of the Schedule alone until
its last micro-step, which publishes all the new masks at once. -/
def Obligations.StrictSwapPublishesTheBuildAtOnce : Prop :=
  ∀ s : State, s.Inv → s.params.strictSwap = true → s.busy = true →
    (s.cur ≠ 254 → ∀ k, (buildStep s).readS k = s.readS k) ∧
    (s.cur = 254 → ∀ k, k < 256 → (buildStep s).readS k = targetMask s.params s.b k)

/-- Rule R98, ONMASK: its word, its response, nothing else written; 0 at phase 255 in every state of the invariant and
at every phase after reset; `M(t)` when the Schedule is fresh; no response while a build runs; and the frame step
uses the same entry. -/
def Obligations.OnmaskRespondsWithTheEntry : Prop :=
  ∀ (t : Byte) (s : State),
    decode (0xA0000000 ||| t.setWidth 32 <<< 8) = .ok (.onmask t) ∧
    exec (.onmask t) s = .next { s with responses := s.responses ++ [s.readS t.toNat] } ∧
    (s.Inv → t = 255 → s.readS t.toNat = 0) ∧
    (s.Fresh → s.readS t.toNat = targetMask s.params s.b t.toNat) ∧
    (∀ (p : Params) (pins0 : Word), exec (.onmask t) (State.atReset p pins0) =
      .next { State.atReset p pins0 with responses := [0] }) ∧
    (∀ s', s.busy = true → step s = .next s' → s'.responses = s.responses) ∧
    ∃ e, (frameStep s).pinEvents = s.pinEvents ++ [e] ∧ e.on = s.readS (s.ph + 1).toNat

/-- Rule R99, OFFMASK: its word, its response `~S[t] & ~RESERVED_MASK`, nothing else written; on- and off-mask never
meet, cover the 31 other lines when `S[t]` is clear of the reserved bit, and leave the reserved bit 0; at phase 255 it
is `~RESERVED_MASK`; and the frame step uses the same function. -/
def Obligations.OffmaskRespondsWithTheComplement : Prop :=
  ∀ (t : Byte) (s : State),
    decode (0xB0000000 ||| t.setWidth 32 <<< 8) = .ok (.offmask t) ∧
    exec (.offmask t) s =
      .next { s with responses := s.responses ++ [~~~s.readS t.toNat &&& ~~~s.params.reservedMask] } ∧
    offMask s.params (s.readS t.toNat) = ~~~s.readS t.toNat &&& ~~~s.params.reservedMask ∧
    offMask s.params (s.readS t.toNat) &&& s.readS t.toNat = 0 ∧
    (s.readS t.toNat &&& s.params.reservedMask = 0 →
      offMask s.params (s.readS t.toNat) ||| s.readS t.toNat = ~~~s.params.reservedMask) ∧
    offMask s.params (s.readS t.toNat) &&& s.params.reservedMask = 0 ∧
    (s.Inv → s.readS t.toNat &&& s.params.reservedMask = 0 ∧
      (t = 255 → offMask s.params (s.readS t.toNat) = ~~~s.params.reservedMask)) ∧
    ∃ e, (frameStep s).pinEvents = s.pinEvents ++ [e] ∧ e.off = offMask s.params (s.readS (s.ph + 1).toNat)

/-! ## The schedule driver -/

/-- Rule R110 (decisions D16, D18; the latch is decision D19): what one frame step writes and emits, and that it
writes nothing else. -/
def Obligations.FrameStepAdvancesAndEmits : Prop :=
  ∀ s : State, ∃ t, t = frameStep s ∧ t.fp = false ∧ t.ph.toNat = (s.ph.toNat + 1) % 256 ∧
    t.pinEvents = s.pinEvents ++
      [⟨s.readS t.ph.toNat, ~~~s.readS t.ph.toNat &&& ~~~s.params.reservedMask⟩] ∧
    t.pins = (s.pins ||| s.readS t.ph.toNat) &&& ~~~(~~~s.readS t.ph.toNat &&& ~~~s.params.reservedMask) ∧
    t = { s with fp := t.fp, ph := t.ph, pins := t.pins, pinEvents := t.pinEvents }

/-- Rule R112 (derived there; the latch is decision D19): the pair a frame step emits commands each of the 31
non-reserved lines and never the reserved one, and the latch then shows exactly the on-mask. -/
def Obligations.EveryEmittedPairSparesTheReservedLine : Prop :=
  ∀ s : State, s.Inv → ∃ e, (frameStep s).pinEvents = s.pinEvents ++ [e] ∧ e.on &&& e.off = 0 ∧
    e.on &&& s.params.reservedMask = 0 ∧ e.off &&& s.params.reservedMask = 0 ∧
    e.on ||| e.off = ~~~s.params.reservedMask ∧
    (frameStep s).pins &&& ~~~s.params.reservedMask = e.on ∧
    (frameStep s).pins &&& s.params.reservedMask = s.pins &&& s.params.reservedMask

/-- Rule R116: the frame step reads only the Schedule and the phase (and the constant reserved bit): two states that
agree on them emit the same event and reach the same phase. -/
def Obligations.FrameStepReadsOnlyScheduleAndPhase : Prop :=
  ∀ s s' : State, (∀ t, t < 256 → s.readS t = s'.readS t) → s.ph = s'.ph → s.params.debugBit = s'.params.debugBit →
    (frameStep s).ph = (frameStep s').ph ∧
    ∃ e, (frameStep s).pinEvents = s.pinEvents ++ [e] ∧ (frameStep s').pinEvents = s'.pinEvents ++ [e]

/-- Rules R16, R113 (derived there): a step that moves `PH` or emits an event is a frame step with the request
pending. -/
def Obligations.OnlyTheFrameStepMovesThePhase : Prop :=
  ∀ s t : State, step s = .next t → (t.ph ≠ s.ph ∨ t.pinEvents ≠ s.pinEvents) →
    s.fp = true ∧ ∃ rest, t = frameStep { s with env := rest }

/-- Rules R113, R114, R127 (derived there): over n frame periods, whatever agent L has to do, the phase advances by
n and the n events are the entries at the n next phases, in cyclic ascending order; agent L's work waits. -/
def Obligations.FramePeriodsWalkTheSchedule : Prop :=
  ∀ (n : Nat) (s : State), s.env = framePeriods n →
    ∃ t, Sys2Proof.core.run (2 * n) s = .next t ∧ t.ph = s.ph + BitVec.ofNat 8 n ∧
      t.pinEvents = s.pinEvents ++ (List.range n).map (fun k =>
        let on := s.readS ((s.ph.toNat + k + 1) % 256)
        ⟨on, offMask s.params on⟩) ∧
      t.sched = s.sched ∧ t.b = s.b ∧ t.busy = s.busy ∧ t.cur = s.cur ∧ t.port = s.port

/-- Rule R102 (derived there): with a fresh Schedule, over 256 consecutive frame steps each line is on at as many of
them as the largest effective brightness among the channels that own it; with disjoint pins (a premise of R144) each
line of channel i at exactly `eff(i)` of them. -/
def Obligations.DutyCycleIsTheEffectiveBrightness : Prop :=
  ∀ s : State, s.Fresh → s.env = framePeriods 256 →
    ∃ t evs, Sys2Proof.core.run 512 s = .next t ∧ t.pinEvents = s.pinEvents ++ evs ∧ evs.length = 256 ∧
      (∀ line, evs.countP (fun e => e.on.getLsbD line) =
        (((List.range s.params.n).filter (fun i => (s.params.pin i).getLsbD line)).map
          (fun i => (effAt s.params s.b i).toNat)).foldr max 0) ∧
      (s.params.DisjointPins → ∀ i line, i < s.params.n → (s.params.pin i).getLsbD line = true →
        evs.countP (fun e => e.on.getLsbD line) = (effAt s.params s.b i).toNat)

/-- Rule R135 in the model's terms (the latch is decision D19): with the frame timer disabled no step emits an event
or moves `PH`, the 31 non-reserved lines keep their state, and the timer stays off. -/
def Obligations.DisabledFrameTimerFreezesTheLines : Prop :=
  ∀ s t : State, s.FrameTimerOff → step s = .next t →
    t.FrameTimerOff ∧ t.ph = s.ph ∧ t.pinEvents = s.pinEvents ∧
      t.pins &&& ~~~s.params.reservedMask = s.pins &&& ~~~s.params.reservedMask

/-! ## Whole-machine rules -/

/-- The invariant of `State.Inv` (rules R5, R11, R15, R19, R37, R100): legal and constant parameters, N registers,
canonical memories, `S[255] = 0`, no reserved bit, a cursor in range and the built entries right. Every step keeps
it. -/
def Obligations.EveryStepKeepsTheMachineInvariant : Prop :=
  ∀ s t : State, s.Inv → step s = .next t → t.Inv

/-- The content of rule R120, with the host's contract of R128 and R133 as premise: a machine whose host sends only
legal words with channel indices below N never faults and is never refused, and the rest of the host's words stay
legal. In a quiescent state with no outside move left the next state is the idle step, which is the model's choice
(assumption 6; by rule R152 no agent has a step there). -/
def Obligations.LegalHostNeverStopsTheMachine : Prop :=
  ∀ s : State, s.HostLegal → ∃ t, step s = .next t ∧ t.HostLegal

/-- Rule R148 (decision D17; endless inputs are assumption 4, what counts as enabled is assumption 16). In an endless
run that is fair to agent L, every build ends, with the store it started from and a fresh Schedule, and every word
waiting at the port is accepted and executed. Without fairness neither need happen: from every state of a build there
is an endless run, with one frame step in every two steps, in which the build never moves. -/
def Obligations.FairAgentLMakesProgress : Prop :=
  (∀ (input : Nat → List EnvMove) (run : Nat → State), EndlessRun input run → FairL input run →
    (∀ n, (run n).Inv → (run n).busy = true →
      ∃ m, n ≤ m ∧ (run m).busy = false ∧ (run m).b = (run n).b ∧ (run m).Fresh) ∧
    (∀ n w, (run n).port = some w →
      ∃ m c rest, n ≤ m ∧ (run m).port = some w ∧ (run m).busy = false ∧ decode w = .ok c ∧
        exec c { run m with env := rest, port := none } = .next (run (m + 1)))) ∧
  (∀ s : State, s.busy = true → s.env = [] →
    ∃ (input : Nat → List EnvMove) (run : Nat → State), run 0 = s ∧ EndlessRun input run ∧ ¬ FairL input run ∧
      ∀ k, (run k).busy = true ∧ (run k).cur = s.cur ∧ (run k).port = s.port ∧ (run k).b = s.b ∧
        (run k).sched = s.sched ∧ (run k).pinEvents.length = s.pinEvents.length + k / 2)
end

