-- ==== Sys2Proof/Laws/Encoding.lean ====
section
/-! SUPPORT. The five fields of an encoded command word (spec/30_encoding.md rules R52, R59). -/

namespace Sys2Proof

theorem shiftedFlag_bit (a : Bool) (n : Nat) (h : n < 32) :
    ((if a then 1#32 else 0#32) <<< 27).getLsbD n = (a && decide (n = 27)) := by
  cases a
  · simp
  · rw [Bool.true_and, if_pos rfl]
    revert n; decide

/-- The command word bit by bit. -/
theorem commandWord_bit (op : Nat) (a : Bool) (i v : Byte) (n : Nat) (h : n < 32) :
    (commandWord op a i v).getLsbD n =
      ((decide (28 ≤ n) && op.testBit (n - 28)) || (a && decide (n = 27)) ||
        (decide (8 ≤ n) && i.getLsbD (n - 8)) || v.getLsbD n) := by
  have h28 : n - 28 < 32 := by omega
  have h8 : n - 8 < 32 := by omega
  simp only [commandWord, BitVec.getLsbD_or, shiftedFlag_bit a n h, BitVec.getLsbD_shiftLeft, BitVec.getLsbD_ofNat,
    BitVec.getLsbD_setWidth, h, h28, h8, decide_true, Bool.true_and]
  grind

theorem opField_commandWord (op : Nat) (a : Bool) (i v : Byte) :
    opField (commandWord op a i v) = BitVec.ofNat 4 op := by
  apply BitVec.eq_of_getLsbD_eq
  intro k hk
  have h : 28 + k < 32 := by omega
  have hv : v.getLsbD (28 + k) = false := BitVec.getLsbD_of_ge _ _ (by omega)
  have hi : i.getLsbD (28 + k - 8) = false := BitVec.getLsbD_of_ge _ _ (by omega)
  have h1 : ¬ 28 + k = 27 := by omega
  simp only [opField, BitVec.getLsbD_extractLsb', hk, decide_true, Bool.true_and, commandWord_bit op a i v _ h, hv, hi, h1,
    BitVec.getLsbD_ofNat]
  simp

theorem allField_commandWord (op : Nat) (a : Bool) (i v : Byte) : allField (commandWord op a i v) = a := by
  rw [allField, commandWord_bit op a i v 27 (by omega)]
  simp

theorem zeroField_commandWord (op : Nat) (a : Bool) (i v : Byte) : zeroField (commandWord op a i v) = 0 := by
  apply BitVec.eq_of_getLsbD_eq
  intro k hk
  have h : 16 + k < 32 := by omega
  have hv : v.getLsbD (16 + k) = false := BitVec.getLsbD_of_ge _ _ (by omega)
  have hi : i.getLsbD (16 + k - 8) = false := BitVec.getLsbD_of_ge _ _ (by omega)
  have h1 : ¬ 28 ≤ 16 + k := by omega
  have h2 : ¬ 16 + k = 27 := by omega
  simp [zeroField, commandWord_bit op a i v _ h, hk, hv, hi, h1, h2]

theorem idxField_commandWord (op : Nat) (a : Bool) (i v : Byte) : idxField (commandWord op a i v) = i := by
  apply BitVec.eq_of_getLsbD_eq
  intro k hk
  have h : 8 + k < 32 := by omega
  have h0 : 8 + k - 8 = k := by omega
  have h1 : ¬ 28 ≤ 8 + k := by omega
  have h2 : ¬ 8 + k = 27 := by omega
  simp [idxField, commandWord_bit op a i v _ h, hk, h0, h1, h2]

theorem valField_commandWord (op : Nat) (a : Bool) (i v : Byte) : valField (commandWord op a i v) = v := by
  apply BitVec.eq_of_getLsbD_eq
  intro k hk
  have h1 : ¬ 28 ≤ k := by omega
  have h2 : ¬ k = 27 := by omega
  have h3 : ¬ 8 ≤ k := by omega
  simp [valField, commandWord_bit op a i v k (by omega), hk, h1, h2, h3]

/-- A word is determined by its five fields. -/
theorem word_ext_fields {w w' : Word} (hop : opField w = opField w') (ha : allField w = allField w')
    (hz : zeroField w = zeroField w') (hi : idxField w = idxField w') (hv : valField w = valField w') : w = w' := by
  apply BitVec.eq_of_getLsbD_eq
  intro n hn
  have bit : ∀ (lo len k : Nat) (u : Word), k < len → (u.extractLsb' lo len).getLsbD k = u.getLsbD (lo + k) := by
    intro lo len k u hk; simp [hk]
  by_cases h8 : n < 8
  · have := congrArg (·.getLsbD n) hv
    simpa [valField, h8] using this
  by_cases h16 : n < 16
  · have := congrArg (·.getLsbD (n - 8)) hi
    simp only [idxField, bit 8 8 (n - 8) _ (by omega), show 8 + (n - 8) = n by omega] at this
    exact this
  by_cases h27 : n < 27
  · have := congrArg (·.getLsbD (n - 16)) hz
    simp only [zeroField, bit 16 11 (n - 16) _ (by omega), show 16 + (n - 16) = n by omega] at this
    exact this
  by_cases h28 : n = 27
  · subst h28; exact ha
  · have := congrArg (·.getLsbD (n - 28)) hop
    simp only [opField, bit 28 4 (n - 28) _ (by omega), show 28 + (n - 28) = n by omega] at this
    exact this

theorem opField_and (w m : Word) : opField (w &&& m) = opField w &&& opField m := by simp [opField, BitVec.extractLsb'_and]
theorem zeroField_and (w m : Word) : zeroField (w &&& m) = zeroField w &&& zeroField m := by
  simp [zeroField, BitVec.extractLsb'_and]
theorem idxField_and (w m : Word) : idxField (w &&& m) = idxField w &&& idxField m := by
  simp [idxField, BitVec.extractLsb'_and]
theorem valField_and (w m : Word) : valField (w &&& m) = valField w &&& valField m := by
  simp [valField, BitVec.extractLsb'_and]

/-- A row of the opcode map read field by field. -/
theorem OpcodeRow.hits_iff_fields (r : OpcodeRow) (w : Word) : r.hits w = true ↔
    opField w &&& opField r.mask = opField r.pattern ∧ (allField w && allField r.mask) = allField r.pattern ∧
      zeroField w &&& zeroField r.mask = zeroField r.pattern ∧
      idxField w &&& idxField r.mask = idxField r.pattern ∧ valField w &&& valField r.mask = valField r.pattern := by
  have ha : ∀ m : Word, allField (w &&& m) = (allField w && allField m) := fun m => by simp [allField]
  rw [OpcodeRow.hits, beq_iff_eq, ← opField_and, ← zeroField_and, ← idxField_and, ← valField_and, ← ha]
  exact ⟨fun h => by rw [h]; exact ⟨rfl, rfl, rfl, rfl, rfl⟩, fun ⟨h1, h2, h3, h4, h5⟩ => word_ext_fields h1 h2 h3 h4 h5⟩

end Sys2Proof
end

