-- ==== Sys2Proof/Laws/State.lean ====
section
/-! SUPPORT. One lemma per field per update of the state, each true by rfl: later proofs read a field of an updated
state by simp and unfold no record update. -/

namespace Sys2Proof.Machine

/-! ### writeB -/

@[simp] theorem writeB_params (s : State) (i : Nat) (v : Byte) : (s.writeB i v).params = s.params := rfl
@[simp] theorem writeB_b (s : State) (i : Nat) (v : Byte) : (s.writeB i v).b = s.b.set i v := rfl
@[simp] theorem writeB_sched (s : State) (i : Nat) (v : Byte) : (s.writeB i v).sched = s.sched := rfl
@[simp] theorem writeB_shadow (s : State) (i : Nat) (v : Byte) : (s.writeB i v).shadow = s.shadow := rfl
@[simp] theorem writeB_ph (s : State) (i : Nat) (v : Byte) : (s.writeB i v).ph = s.ph := rfl
@[simp] theorem writeB_busy (s : State) (i : Nat) (v : Byte) : (s.writeB i v).busy = s.busy := rfl
@[simp] theorem writeB_cur (s : State) (i : Nat) (v : Byte) : (s.writeB i v).cur = s.cur := rfl
@[simp] theorem writeB_fp (s : State) (i : Nat) (v : Byte) : (s.writeB i v).fp = s.fp := rfl
@[simp] theorem writeB_pins (s : State) (i : Nat) (v : Byte) : (s.writeB i v).pins = s.pins := rfl
@[simp] theorem writeB_port (s : State) (i : Nat) (v : Byte) : (s.writeB i v).port = s.port := rfl
@[simp] theorem writeB_env (s : State) (i : Nat) (v : Byte) : (s.writeB i v).env = s.env := rfl
@[simp] theorem writeB_responses (s : State) (i : Nat) (v : Byte) : (s.writeB i v).responses = s.responses := rfl
@[simp] theorem writeB_pinEvents (s : State) (i : Nat) (v : Byte) : (s.writeB i v).pinEvents = s.pinEvents := rfl

/-! ### mapB -/

@[simp] theorem mapB_params (s : State) (f : Byte → Byte) : (s.mapB f).params = s.params := rfl
@[simp] theorem mapB_b (s : State) (f : Byte → Byte) : (s.mapB f).b = s.b.map f := rfl
@[simp] theorem mapB_sched (s : State) (f : Byte → Byte) : (s.mapB f).sched = s.sched := rfl
@[simp] theorem mapB_shadow (s : State) (f : Byte → Byte) : (s.mapB f).shadow = s.shadow := rfl
@[simp] theorem mapB_ph (s : State) (f : Byte → Byte) : (s.mapB f).ph = s.ph := rfl
@[simp] theorem mapB_busy (s : State) (f : Byte → Byte) : (s.mapB f).busy = s.busy := rfl
@[simp] theorem mapB_cur (s : State) (f : Byte → Byte) : (s.mapB f).cur = s.cur := rfl
@[simp] theorem mapB_fp (s : State) (f : Byte → Byte) : (s.mapB f).fp = s.fp := rfl
@[simp] theorem mapB_pins (s : State) (f : Byte → Byte) : (s.mapB f).pins = s.pins := rfl
@[simp] theorem mapB_port (s : State) (f : Byte → Byte) : (s.mapB f).port = s.port := rfl
@[simp] theorem mapB_env (s : State) (f : Byte → Byte) : (s.mapB f).env = s.env := rfl
@[simp] theorem mapB_responses (s : State) (f : Byte → Byte) : (s.mapB f).responses = s.responses := rfl
@[simp] theorem mapB_pinEvents (s : State) (f : Byte → Byte) : (s.mapB f).pinEvents = s.pinEvents := rfl

/-! ### permuteB -/

@[simp] theorem permuteB_params (s : State) (src : Nat → Nat) : (s.permuteB src).params = s.params := rfl
@[simp] theorem permuteB_b (s : State) (src : Nat → Nat) : (s.permuteB src).b = (List.range s.params.n).map (fun i => s.readB (src i)) := rfl
@[simp] theorem permuteB_sched (s : State) (src : Nat → Nat) : (s.permuteB src).sched = s.sched := rfl
@[simp] theorem permuteB_shadow (s : State) (src : Nat → Nat) : (s.permuteB src).shadow = s.shadow := rfl
@[simp] theorem permuteB_ph (s : State) (src : Nat → Nat) : (s.permuteB src).ph = s.ph := rfl
@[simp] theorem permuteB_busy (s : State) (src : Nat → Nat) : (s.permuteB src).busy = s.busy := rfl
@[simp] theorem permuteB_cur (s : State) (src : Nat → Nat) : (s.permuteB src).cur = s.cur := rfl
@[simp] theorem permuteB_fp (s : State) (src : Nat → Nat) : (s.permuteB src).fp = s.fp := rfl
@[simp] theorem permuteB_pins (s : State) (src : Nat → Nat) : (s.permuteB src).pins = s.pins := rfl
@[simp] theorem permuteB_port (s : State) (src : Nat → Nat) : (s.permuteB src).port = s.port := rfl
@[simp] theorem permuteB_env (s : State) (src : Nat → Nat) : (s.permuteB src).env = s.env := rfl
@[simp] theorem permuteB_responses (s : State) (src : Nat → Nat) : (s.permuteB src).responses = s.responses := rfl
@[simp] theorem permuteB_pinEvents (s : State) (src : Nat → Nat) : (s.permuteB src).pinEvents = s.pinEvents := rfl

/-! ### respond -/

@[simp] theorem respond_params (s : State) (v : Word) : (s.respond v).params = s.params := rfl
@[simp] theorem respond_b (s : State) (v : Word) : (s.respond v).b = s.b := rfl
@[simp] theorem respond_sched (s : State) (v : Word) : (s.respond v).sched = s.sched := rfl
@[simp] theorem respond_shadow (s : State) (v : Word) : (s.respond v).shadow = s.shadow := rfl
@[simp] theorem respond_ph (s : State) (v : Word) : (s.respond v).ph = s.ph := rfl
@[simp] theorem respond_busy (s : State) (v : Word) : (s.respond v).busy = s.busy := rfl
@[simp] theorem respond_cur (s : State) (v : Word) : (s.respond v).cur = s.cur := rfl
@[simp] theorem respond_fp (s : State) (v : Word) : (s.respond v).fp = s.fp := rfl
@[simp] theorem respond_pins (s : State) (v : Word) : (s.respond v).pins = s.pins := rfl
@[simp] theorem respond_port (s : State) (v : Word) : (s.respond v).port = s.port := rfl
@[simp] theorem respond_env (s : State) (v : Word) : (s.respond v).env = s.env := rfl
@[simp] theorem respond_responses (s : State) (v : Word) : (s.respond v).responses = s.responses ++ [v] := rfl
@[simp] theorem respond_pinEvents (s : State) (v : Word) : (s.respond v).pinEvents = s.pinEvents := rfl

/-! ### emitPins -/

@[simp] theorem emitPins_params (s : State) (on off : Word) : (s.emitPins on off).params = s.params := rfl
@[simp] theorem emitPins_b (s : State) (on off : Word) : (s.emitPins on off).b = s.b := rfl
@[simp] theorem emitPins_sched (s : State) (on off : Word) : (s.emitPins on off).sched = s.sched := rfl
@[simp] theorem emitPins_shadow (s : State) (on off : Word) : (s.emitPins on off).shadow = s.shadow := rfl
@[simp] theorem emitPins_ph (s : State) (on off : Word) : (s.emitPins on off).ph = s.ph := rfl
@[simp] theorem emitPins_busy (s : State) (on off : Word) : (s.emitPins on off).busy = s.busy := rfl
@[simp] theorem emitPins_cur (s : State) (on off : Word) : (s.emitPins on off).cur = s.cur := rfl
@[simp] theorem emitPins_fp (s : State) (on off : Word) : (s.emitPins on off).fp = s.fp := rfl
@[simp] theorem emitPins_pins (s : State) (on off : Word) : (s.emitPins on off).pins = latch s.pins on off := rfl
@[simp] theorem emitPins_port (s : State) (on off : Word) : (s.emitPins on off).port = s.port := rfl
@[simp] theorem emitPins_env (s : State) (on off : Word) : (s.emitPins on off).env = s.env := rfl
@[simp] theorem emitPins_responses (s : State) (on off : Word) : (s.emitPins on off).responses = s.responses := rfl
@[simp] theorem emitPins_pinEvents (s : State) (on off : Word) : (s.emitPins on off).pinEvents = s.pinEvents ++ [⟨on, off⟩] := rfl

/-! ### frameStep -/

@[simp] theorem frameStep_params (s : State) : (frameStep s).params = s.params := rfl
@[simp] theorem frameStep_b (s : State) : (frameStep s).b = s.b := rfl
@[simp] theorem frameStep_sched (s : State) : (frameStep s).sched = s.sched := rfl
@[simp] theorem frameStep_shadow (s : State) : (frameStep s).shadow = s.shadow := rfl
@[simp] theorem frameStep_ph (s : State) : (frameStep s).ph = s.ph + 1 := rfl
@[simp] theorem frameStep_busy (s : State) : (frameStep s).busy = s.busy := rfl
@[simp] theorem frameStep_cur (s : State) : (frameStep s).cur = s.cur := rfl
@[simp] theorem frameStep_fp (s : State) : (frameStep s).fp = false := rfl
@[simp] theorem frameStep_pins (s : State) : (frameStep s).pins = latch s.pins (s.readS (s.ph + 1).toNat) (offMask s.params (s.readS (s.ph + 1).toNat)) := rfl
@[simp] theorem frameStep_port (s : State) : (frameStep s).port = s.port := rfl
@[simp] theorem frameStep_env (s : State) : (frameStep s).env = s.env := rfl
@[simp] theorem frameStep_responses (s : State) : (frameStep s).responses = s.responses := rfl
@[simp] theorem frameStep_pinEvents (s : State) : (frameStep s).pinEvents = s.pinEvents ++ [⟨s.readS (s.ph + 1).toNat, offMask s.params (s.readS (s.ph + 1).toNat)⟩] := rfl

/-! ### raiseFrameRequest -/

@[simp] theorem raiseFrameRequest_params (s : State) : (raiseFrameRequest s).params = s.params := rfl
@[simp] theorem raiseFrameRequest_b (s : State) : (raiseFrameRequest s).b = s.b := rfl
@[simp] theorem raiseFrameRequest_sched (s : State) : (raiseFrameRequest s).sched = s.sched := rfl
@[simp] theorem raiseFrameRequest_shadow (s : State) : (raiseFrameRequest s).shadow = s.shadow := rfl
@[simp] theorem raiseFrameRequest_ph (s : State) : (raiseFrameRequest s).ph = s.ph := rfl
@[simp] theorem raiseFrameRequest_busy (s : State) : (raiseFrameRequest s).busy = s.busy := rfl
@[simp] theorem raiseFrameRequest_cur (s : State) : (raiseFrameRequest s).cur = s.cur := rfl
@[simp] theorem raiseFrameRequest_fp (s : State) : (raiseFrameRequest s).fp = true := rfl
@[simp] theorem raiseFrameRequest_pins (s : State) : (raiseFrameRequest s).pins = s.pins := rfl
@[simp] theorem raiseFrameRequest_port (s : State) : (raiseFrameRequest s).port = s.port := rfl
@[simp] theorem raiseFrameRequest_env (s : State) : (raiseFrameRequest s).env = s.env := rfl
@[simp] theorem raiseFrameRequest_responses (s : State) : (raiseFrameRequest s).responses = s.responses := rfl
@[simp] theorem raiseFrameRequest_pinEvents (s : State) : (raiseFrameRequest s).pinEvents = s.pinEvents := rfl

/-! ### presentCommand -/

@[simp] theorem presentCommand_params (s : State) (w : Word) : (presentCommand s w).params = s.params := rfl
@[simp] theorem presentCommand_b (s : State) (w : Word) : (presentCommand s w).b = s.b := rfl
@[simp] theorem presentCommand_sched (s : State) (w : Word) : (presentCommand s w).sched = s.sched := rfl
@[simp] theorem presentCommand_shadow (s : State) (w : Word) : (presentCommand s w).shadow = s.shadow := rfl
@[simp] theorem presentCommand_ph (s : State) (w : Word) : (presentCommand s w).ph = s.ph := rfl
@[simp] theorem presentCommand_busy (s : State) (w : Word) : (presentCommand s w).busy = s.busy := rfl
@[simp] theorem presentCommand_cur (s : State) (w : Word) : (presentCommand s w).cur = s.cur := rfl
@[simp] theorem presentCommand_fp (s : State) (w : Word) : (presentCommand s w).fp = s.fp := rfl
@[simp] theorem presentCommand_pins (s : State) (w : Word) : (presentCommand s w).pins = s.pins := rfl
@[simp] theorem presentCommand_port (s : State) (w : Word) : (presentCommand s w).port = some w := rfl
@[simp] theorem presentCommand_env (s : State) (w : Word) : (presentCommand s w).env = s.env := rfl
@[simp] theorem presentCommand_responses (s : State) (w : Word) : (presentCommand s w).responses = s.responses := rfl
@[simp] theorem presentCommand_pinEvents (s : State) (w : Word) : (presentCommand s w).pinEvents = s.pinEvents := rfl

/-! ### driveDebugLine -/

@[simp] theorem driveDebugLine_params (s : State) (level : Bool) : (driveDebugLine s level).params = s.params := rfl
@[simp] theorem driveDebugLine_b (s : State) (level : Bool) : (driveDebugLine s level).b = s.b := rfl
@[simp] theorem driveDebugLine_sched (s : State) (level : Bool) : (driveDebugLine s level).sched = s.sched := rfl
@[simp] theorem driveDebugLine_shadow (s : State) (level : Bool) : (driveDebugLine s level).shadow = s.shadow := rfl
@[simp] theorem driveDebugLine_ph (s : State) (level : Bool) : (driveDebugLine s level).ph = s.ph := rfl
@[simp] theorem driveDebugLine_busy (s : State) (level : Bool) : (driveDebugLine s level).busy = s.busy := rfl
@[simp] theorem driveDebugLine_cur (s : State) (level : Bool) : (driveDebugLine s level).cur = s.cur := rfl
@[simp] theorem driveDebugLine_fp (s : State) (level : Bool) : (driveDebugLine s level).fp = s.fp := rfl
@[simp] theorem driveDebugLine_port (s : State) (level : Bool) : (driveDebugLine s level).port = s.port := rfl
@[simp] theorem driveDebugLine_env (s : State) (level : Bool) : (driveDebugLine s level).env = s.env := rfl
@[simp] theorem driveDebugLine_responses (s : State) (level : Bool) : (driveDebugLine s level).responses = s.responses := rfl
@[simp] theorem driveDebugLine_pinEvents (s : State) (level : Bool) : (driveDebugLine s level).pinEvents = s.pinEvents := rfl

/-! ### supply -/

@[simp] theorem supply_params (s : State) (moves : List EnvMove) : (s.supply moves).params = s.params := rfl
@[simp] theorem supply_b (s : State) (moves : List EnvMove) : (s.supply moves).b = s.b := rfl
@[simp] theorem supply_sched (s : State) (moves : List EnvMove) : (s.supply moves).sched = s.sched := rfl
@[simp] theorem supply_shadow (s : State) (moves : List EnvMove) : (s.supply moves).shadow = s.shadow := rfl
@[simp] theorem supply_ph (s : State) (moves : List EnvMove) : (s.supply moves).ph = s.ph := rfl
@[simp] theorem supply_busy (s : State) (moves : List EnvMove) : (s.supply moves).busy = s.busy := rfl
@[simp] theorem supply_cur (s : State) (moves : List EnvMove) : (s.supply moves).cur = s.cur := rfl
@[simp] theorem supply_fp (s : State) (moves : List EnvMove) : (s.supply moves).fp = s.fp := rfl
@[simp] theorem supply_pins (s : State) (moves : List EnvMove) : (s.supply moves).pins = s.pins := rfl
@[simp] theorem supply_port (s : State) (moves : List EnvMove) : (s.supply moves).port = s.port := rfl
@[simp] theorem supply_env (s : State) (moves : List EnvMove) : (s.supply moves).env = s.env ++ moves := rfl
@[simp] theorem supply_responses (s : State) (moves : List EnvMove) : (s.supply moves).responses = s.responses := rfl
@[simp] theorem supply_pinEvents (s : State) (moves : List EnvMove) : (s.supply moves).pinEvents = s.pinEvents := rfl

/-! ### stageCommand -/

@[simp] theorem stageCommand_params (s : State) (w : Word) : (stageCommand s w).params = s.params := rfl
@[simp] theorem stageCommand_b (s : State) (w : Word) : (stageCommand s w).b = s.b := rfl
@[simp] theorem stageCommand_sched (s : State) (w : Word) : (stageCommand s w).sched = s.sched := rfl
@[simp] theorem stageCommand_shadow (s : State) (w : Word) : (stageCommand s w).shadow = s.shadow := rfl
@[simp] theorem stageCommand_ph (s : State) (w : Word) : (stageCommand s w).ph = s.ph := rfl
@[simp] theorem stageCommand_busy (s : State) (w : Word) : (stageCommand s w).busy = false := rfl
@[simp] theorem stageCommand_cur (s : State) (w : Word) : (stageCommand s w).cur = s.cur := rfl
@[simp] theorem stageCommand_fp (s : State) (w : Word) : (stageCommand s w).fp = false := rfl
@[simp] theorem stageCommand_pins (s : State) (w : Word) : (stageCommand s w).pins = s.pins := rfl
@[simp] theorem stageCommand_port (s : State) (w : Word) : (stageCommand s w).port = some w := rfl
@[simp] theorem stageCommand_env (s : State) (w : Word) : (stageCommand s w).env = .agents :: s.env := rfl
@[simp] theorem stageCommand_responses (s : State) (w : Word) : (stageCommand s w).responses = s.responses := rfl
@[simp] theorem stageCommand_pinEvents (s : State) (w : Word) : (stageCommand s w).pinEvents = s.pinEvents := rfl

/-! ### atReset -/

@[simp] theorem atReset_params (p : Params) (pins0 : Word) : (State.atReset p pins0).params = p := rfl
@[simp] theorem atReset_b (p : Params) (pins0 : Word) : (State.atReset p pins0).b = List.replicate p.n 0 := rfl
@[simp] theorem atReset_sched (p : Params) (pins0 : Word) : (State.atReset p pins0).sched = [] := rfl
@[simp] theorem atReset_shadow (p : Params) (pins0 : Word) : (State.atReset p pins0).shadow = [] := rfl
@[simp] theorem atReset_ph (p : Params) (pins0 : Word) : (State.atReset p pins0).ph = 0 := rfl
@[simp] theorem atReset_busy (p : Params) (pins0 : Word) : (State.atReset p pins0).busy = false := rfl
@[simp] theorem atReset_cur (p : Params) (pins0 : Word) : (State.atReset p pins0).cur = 0 := rfl
@[simp] theorem atReset_fp (p : Params) (pins0 : Word) : (State.atReset p pins0).fp = false := rfl
@[simp] theorem atReset_pins (p : Params) (pins0 : Word) : (State.atReset p pins0).pins = pins0 := rfl
@[simp] theorem atReset_port (p : Params) (pins0 : Word) : (State.atReset p pins0).port = none := rfl
@[simp] theorem atReset_env (p : Params) (pins0 : Word) : (State.atReset p pins0).env = [] := rfl
@[simp] theorem atReset_responses (p : Params) (pins0 : Word) : (State.atReset p pins0).responses = [] := rfl
@[simp] theorem atReset_pinEvents (p : Params) (pins0 : Word) : (State.atReset p pins0).pinEvents = [] := rfl

/-! ### buildStep -/

@[simp] theorem buildStep_params (s : State) : (buildStep s).params = s.params := by
  unfold buildStep writeEntry; split <;> rfl
@[simp] theorem buildStep_b (s : State) : (buildStep s).b = s.b := by
  unfold buildStep writeEntry; split <;> rfl
@[simp] theorem buildStep_ph (s : State) : (buildStep s).ph = s.ph := by
  unfold buildStep writeEntry; split <;> rfl
@[simp] theorem buildStep_cur (s : State) : (buildStep s).cur = s.cur + 1 := rfl
@[simp] theorem buildStep_fp (s : State) : (buildStep s).fp = s.fp := by
  unfold buildStep writeEntry; split <;> rfl
@[simp] theorem buildStep_pins (s : State) : (buildStep s).pins = s.pins := by
  unfold buildStep writeEntry; split <;> rfl
@[simp] theorem buildStep_port (s : State) : (buildStep s).port = s.port := by
  unfold buildStep writeEntry; split <;> rfl
@[simp] theorem buildStep_env (s : State) : (buildStep s).env = s.env := by
  unfold buildStep writeEntry; split <;> rfl
@[simp] theorem buildStep_responses (s : State) : (buildStep s).responses = s.responses := by
  unfold buildStep writeEntry; split <;> rfl
@[simp] theorem buildStep_pinEvents (s : State) : (buildStep s).pinEvents = s.pinEvents := by
  unfold buildStep writeEntry; split <;> rfl

@[simp] theorem buildStep_busy (s : State) :
    (buildStep s).busy = if s.cur = lastEntry then false else s.busy := by
  unfold buildStep writeEntry; split <;> rfl

theorem buildStep_sched (s : State) (h : s.params.strictSwap = false) :
    (buildStep s).sched = s.sched.write s.cur.toNat (targetMask s.params s.b s.cur.toNat) := by
  simp [buildStep, writeEntry, h]

theorem buildStep_shadow (s : State) (h : s.params.strictSwap = false) : (buildStep s).shadow = s.shadow := by
  simp [buildStep, writeEntry, h]

theorem buildStep_shadow_strict (s : State) (h : s.params.strictSwap = true) :
    (buildStep s).shadow = s.shadow.write s.cur.toNat (targetMask s.params s.b s.cur.toNat) := by
  simp [buildStep, writeEntry, h]

theorem buildStep_sched_strict (s : State) (h : s.params.strictSwap = true) :
    (buildStep s).sched = if s.cur = lastEntry then
      swapIn (s.shadow.write s.cur.toNat (targetMask s.params s.b s.cur.toNat)) s.sched else s.sched := by
  simp [buildStep, writeEntry, h]

/-! ### Reads -/

@[simp] theorem readS_frameStep (s : State) (t : Nat) : (frameStep s).readS t = s.readS t := rfl
@[simp] theorem readB_frameStep (s : State) (i : Nat) : (frameStep s).readB i = s.readB i := rfl
@[simp] theorem readS_respond (s : State) (v : Word) (t : Nat) : (s.respond v).readS t = s.readS t := rfl
@[simp] theorem readB_respond (s : State) (v : Word) (i : Nat) : (s.respond v).readB i = s.readB i := rfl

end Sys2Proof.Machine
end

