-- ==== Sys2Proof/Laws/Exec.lean ====
section
/-! SUPPORT. Everything `exec` can do, said once: inside its valid domain a command takes one effect, outside it the
machine faults; and the inversion lemma of the shared operand form. -/

namespace Sys2Proof.Machine

/-- A command on a channel either has its effect at an index below N or faults on an index from N on. -/
theorem withChannel_cases (s : State) (i : Byte) (effect : Nat → State) :
    (i.toNat < s.params.n ∧ withChannel s i effect = .next (effect i.toNat)) ∨
      (s.params.n ≤ i.toNat ∧ withChannel s i effect = .fault (.indexRange i)) := by
  unfold withChannel violate
  split
  · exact .inl ⟨‹_›, rfl⟩
  · exact .inr ⟨by omega, rfl⟩

/-- The state a command leaves when its operands are in its domain. -/
def effectOf : Instr → State → State
  | .get i, s => s.respond ((s.readB i.toNat).setWidth 32)
  | .set i v, s => s.writeB i.toNat v
  | .adds i v, s => s.writeB i.toNat (addSat (s.readB i.toNat) v)
  | .addsAll v, s => s.mapB (addSat · v)
  | .subs i v, s => s.writeB i.toNat (subSat (s.readB i.toNat) v)
  | .subsAll v, s => s.mapB (subSat · v)
  | .addw i v, s => s.writeB i.toNat (addWrap (s.readB i.toNat) v)
  | .addwAll v, s => s.mapB (addWrap · v)
  | .subw i v, s => s.writeB i.toNat (subWrap (s.readB i.toNat) v)
  | .subwAll v, s => s.mapB (subWrap · v)
  | .rotl k, s => s.permuteB (rotlSource s.params.n k)
  | .rotr k, s => s.permuteB (rotrSource s.params.n k)
  | .rebuild, s => { s with busy := true, cur := 0 }
  | .onmask t, s => s.respond (s.readS t.toNat)
  | .offmask t, s => s.respond (offMask s.params (s.readS t.toNat))

/-- What `exec` answers. -/
theorem exec_eq (c : Instr) (s : State) :
    exec c s = if c.wellFormed s.params.n then .next (effectOf c s) else .fault (.indexRange (c.channel?.getD 0)) := by
  cases c <;>
    simp [exec, execGet, execSet, execAdds, execAddsAll, execSubs, execSubsAll, execAddw, execAddwAll, execSubw,
      execSubwAll, execRotl, execRotr, execRebuild, execOnmask, execOffmask, withChannel, violate, phaseIndex,
      Instr.wellFormed, Instr.channel?, effectOf]

/-- A command that answers a next state was in its domain, and the state is its effect. -/
theorem exec_next {c : Instr} {s t : State} (h : exec c s = .next t) :
    c.wellFormed s.params.n = true ∧ t = effectOf c s := by
  rw [exec_eq] at h
  split at h
  · exact ⟨‹_›, by injection h with h; exact h.symm⟩
  · cases h

section
variable (c : Instr) (s : State)

@[simp] theorem effectOf_params : (effectOf c s).params = s.params := by cases c <;> rfl
@[simp] theorem effectOf_sched : (effectOf c s).sched = s.sched := by cases c <;> rfl
@[simp] theorem effectOf_shadow : (effectOf c s).shadow = s.shadow := by cases c <;> rfl
@[simp] theorem effectOf_ph : (effectOf c s).ph = s.ph := by cases c <;> rfl
@[simp] theorem effectOf_fp : (effectOf c s).fp = s.fp := by cases c <;> rfl
@[simp] theorem effectOf_pins : (effectOf c s).pins = s.pins := by cases c <;> rfl
@[simp] theorem effectOf_port : (effectOf c s).port = s.port := by cases c <;> rfl
@[simp] theorem effectOf_env : (effectOf c s).env = s.env := by cases c <;> rfl
@[simp] theorem effectOf_pinEvents : (effectOf c s).pinEvents = s.pinEvents := by cases c <;> rfl

/-- No command changes how many brightness registers there are. -/
theorem effectOf_b_length (h : s.b.length = s.params.n) : (effectOf c s).b.length = s.params.n := by
  cases c <;> simp [effectOf, h, State.writeB, State.mapB, State.permuteB, State.respond]

/-- Only a command that writes brightness changes the store. -/
theorem effectOf_b (h : c.writesB = false) : (effectOf c s).b = s.b := by
  cases c <;> first | rfl | simp [Instr.writesB, Instr.isBrightness, Instr.responds] at h

end

end Sys2Proof.Machine
end

