-- ==== Sys2Proof/Laws/Memory.lean ====
section
/-! SUPPORT. The laws of the SCHED index space: a read after a write, and that every operation keeps the canonical
form. -/

namespace Sys2Proof.Machine

namespace MemoryLaws

theorem wfFrom_cons {lo a : Nat} {v : Word} {m : Memory} :
    Memory.wfFrom lo ((a, v) :: m) = true ↔ (lo ≤ a ∧ a < 256 ∧ v ≠ unlisted) ∧ Memory.wfFrom (a + 1) m = true := by
  simp [Memory.wfFrom]

/-- A canonical memory from `lo` on is one from any smaller index on. -/
theorem wfFrom_mono {lo lo' : Nat} {m : Memory} (h : lo' ≤ lo) (hm : Memory.wfFrom lo m = true) :
    Memory.wfFrom lo' m = true := by
  cases m with
  | nil => rfl
  | cons e m =>
    obtain ⟨a, v⟩ := e
    rw [wfFrom_cons] at hm ⊢
    exact ⟨⟨by omega, hm.1.2⟩, hm.2⟩

/-- Below its first index a canonical memory reads as unlisted. -/
theorem read_below {lo t : Nat} {m : Memory} (hm : Memory.wfFrom lo m = true) (h : t < lo) :
    m.read t = unlisted := by
  induction m generalizing lo with
  | nil => rfl
  | cons e m ih =>
    obtain ⟨a, v⟩ := e
    rw [wfFrom_cons] at hm
    have : a ≠ t := by omega
    simp only [Memory.read, this, if_false]
    exact ih hm.2 (by omega)

theorem wfFrom_write {lo t : Nat} {v : Word} {m : Memory} (hm : Memory.wfFrom lo m = true) (hlo : lo ≤ t)
    (ht : t < 256) : Memory.wfFrom lo (m.write t v) = true := by
  induction m generalizing lo with
  | nil =>
    simp only [Memory.write]
    split
    · rfl
    · simp [Memory.wfFrom, *]
  | cons e m ih =>
    obtain ⟨a, u⟩ := e
    rw [wfFrom_cons] at hm
    simp only [Memory.write]
    split
    · split
      · exact wfFrom_cons.2 hm
      · exact wfFrom_cons.2 ⟨⟨hlo, ht, ‹_›⟩, wfFrom_cons.2 ⟨⟨by omega, hm.1.2⟩, hm.2⟩⟩
    · split
      · split
        · exact wfFrom_mono (by omega) hm.2
        · exact wfFrom_cons.2 ⟨⟨hlo, ht, ‹_›⟩, ‹t = a› ▸ hm.2⟩
      · exact wfFrom_cons.2 ⟨hm.1, ih hm.2 (by omega)⟩

theorem read_write_from {lo t : Nat} {v : Word} {m : Memory} (hm : Memory.wfFrom lo m = true) (k : Nat) :
    (m.write t v).read k = if k = t then v else m.read k := by
  induction m generalizing lo with
  | nil => simp only [Memory.write, Memory.read]; grind [Memory.read]
  | cons e m ih =>
    obtain ⟨a, u⟩ := e
    rw [wfFrom_cons] at hm
    have below := fun (j : Nat) (hj : j < a + 1) => read_below hm.2 hj
    have tail := ih hm.2
    simp only [Memory.write]
    grind [Memory.read]

end MemoryLaws

/-- A write keeps the canonical form. -/
theorem Memory.write_wf {m : Memory} {t : Nat} {v : Word} (hm : m.wf = true) (ht : t < 256) :
    (m.write t v).wf = true := MemoryLaws.wfFrom_write hm (Nat.zero_le _) ht

/-- A read after a write: the written entry, and every other entry as before. -/
theorem Memory.read_write {m : Memory} (hm : m.wf = true) (t k : Nat) (v : Word) :
    (m.write t v).read k = if k = t then v else m.read k := MemoryLaws.read_write_from hm k

/-- The reset memory is in canonical form and reads 0 everywhere. -/
@[simp] theorem Memory.nil_wf : Memory.wf [] = true := rfl
@[simp] theorem Memory.nil_read (t : Nat) : Memory.read [] t = 0 := rfl

theorem Memory.foldl_write (f : Nat → Word) (ts : List Nat) (hts : ∀ t ∈ ts, t < 256) :
    ∀ m : Memory, m.wf = true →
      (ts.foldl (fun m t => m.write t (f t)) m).wf = true ∧
        ∀ k, (ts.foldl (fun m t => m.write t (f t)) m).read k = if k ∈ ts then f k else m.read k := by
  induction ts with
  | nil => intro m hm; simp [hm]
  | cons t ts ih =>
    intro m hm
    have hw := Memory.write_wf (v := f t) hm (hts t (by simp))
    obtain ⟨h1, h2⟩ := ih (fun u hu => hts u (by simp [hu])) _ hw
    refine ⟨h1, fun k => ?_⟩
    simp only [List.foldl_cons, h2, Memory.read_write hm, List.mem_cons]
    by_cases hk : k = t
    · subst hk; simp
    · simp [hk]

/-- The swap keeps the canonical form. -/
theorem swapIn_wf {shadow sched : Memory} (hm : sched.wf = true) : (swapIn shadow sched).wf = true :=
  (Memory.foldl_write shadow.read (List.range 255) (by simp; omega) sched hm).1

/-- After the swap entries 0..254 are the shadow's and every other entry is as before. -/
theorem swapIn_read {shadow sched : Memory} (hm : sched.wf = true) (k : Nat) :
    (swapIn shadow sched).read k = if k < 255 then shadow.read k else sched.read k := by
  have h := (Memory.foldl_write shadow.read (List.range 255) (by simp; omega) sched hm).2 k
  simpa [swapIn] using h

end Sys2Proof.Machine
end

