-- ==== Sys2Proof/Laws/PerInstr.lean ====
section
/-! SUPPORT. Statements made per command. FieldLayout: the word of a command has the operation code and the
all-channels bit of its row of rule R55, and a `zero` field of 0. -/

namespace Sys2Proof.Laws

/-- The columns `op` and `A` of rule R55. -/
def opcodeOf : Instr → BitVec 4 × Bool
  | .get _ => (0x1, false)
  | .set _ _ => (0x2, false)
  | .adds _ _ => (0x3, false)
  | .addsAll _ => (0x3, true)
  | .subs _ _ => (0x4, false)
  | .subsAll _ => (0x4, true)
  | .addw _ _ => (0x5, false)
  | .addwAll _ => (0x5, true)
  | .subw _ _ => (0x6, false)
  | .subwAll _ => (0x6, true)
  | .rotl _ => (0x7, false)
  | .rotr _ => (0x8, false)
  | .rebuild => (0x9, false)
  | .onmask _ => (0xA, false)
  | .offmask _ => (0xB, false)

/-- The three fixed fields of the word of `c`. -/
def FieldLayout.Statement (c : Instr) : Prop :=
  (opField (encode c), allField (encode c)) = opcodeOf c ∧ zeroField (encode c) = 0

/-- A command whose word is `commandWord op a i v` has the layout of `op` and `a`. -/
theorem FieldLayout.of_commandWord (c : Instr) (op : Nat) (a : Bool) (i v : Byte) (hw : encode c = commandWord op a i v)
    (hc : opcodeOf c = (BitVec.ofNat 4 op, a)) : FieldLayout.Statement c := by
  refine ⟨?_, ?_⟩
  · rw [hw, hc, opField_commandWord, allField_commandWord]
  · rw [hw, zeroField_commandWord]

theorem FieldLayout.get (i : Byte) : FieldLayout.Statement (.get i) := FieldLayout.of_commandWord _ _ _ _ _ rfl rfl
theorem FieldLayout.set (i v : Byte) : FieldLayout.Statement (.set i v) := FieldLayout.of_commandWord _ _ _ _ _ rfl rfl
theorem FieldLayout.adds (i v : Byte) : FieldLayout.Statement (.adds i v) := FieldLayout.of_commandWord _ _ _ _ _ rfl rfl
theorem FieldLayout.addsAll (v : Byte) : FieldLayout.Statement (.addsAll v) := FieldLayout.of_commandWord _ _ _ _ _ rfl rfl
theorem FieldLayout.subs (i v : Byte) : FieldLayout.Statement (.subs i v) := FieldLayout.of_commandWord _ _ _ _ _ rfl rfl
theorem FieldLayout.subsAll (v : Byte) : FieldLayout.Statement (.subsAll v) := FieldLayout.of_commandWord _ _ _ _ _ rfl rfl
theorem FieldLayout.addw (i v : Byte) : FieldLayout.Statement (.addw i v) := FieldLayout.of_commandWord _ _ _ _ _ rfl rfl
theorem FieldLayout.addwAll (v : Byte) : FieldLayout.Statement (.addwAll v) := FieldLayout.of_commandWord _ _ _ _ _ rfl rfl
theorem FieldLayout.subw (i v : Byte) : FieldLayout.Statement (.subw i v) := FieldLayout.of_commandWord _ _ _ _ _ rfl rfl
theorem FieldLayout.subwAll (v : Byte) : FieldLayout.Statement (.subwAll v) := FieldLayout.of_commandWord _ _ _ _ _ rfl rfl
theorem FieldLayout.rotl (k : Byte) : FieldLayout.Statement (.rotl k) := FieldLayout.of_commandWord _ _ _ _ _ rfl rfl
theorem FieldLayout.rotr (k : Byte) : FieldLayout.Statement (.rotr k) := FieldLayout.of_commandWord _ _ _ _ _ rfl rfl
theorem FieldLayout.rebuild : FieldLayout.Statement .rebuild := FieldLayout.of_commandWord _ _ _ _ _ rfl rfl
theorem FieldLayout.onmask (t : Byte) : FieldLayout.Statement (.onmask t) := FieldLayout.of_commandWord _ _ _ _ _ rfl rfl
theorem FieldLayout.offmask (t : Byte) : FieldLayout.Statement (.offmask t) := FieldLayout.of_commandWord _ _ _ _ _ rfl rfl

end Sys2Proof.Laws
end

