-- ==== Sys2Proof/Laws/Schedule.lean ====
section
/-! SUPPORT. The laws of the mask functions and of one micro-step's write. -/

namespace Sys2Proof.Machine

/-- Bit n of an or of masks is set exactly when some mask has it. -/
theorem orMasks_bit (ms : List Word) (n : Nat) : (orMasks ms).getLsbD n = ms.any (·.getLsbD n) := by
  induction ms with
  | nil => simp [orMasks]
  | cons m ms ih => simpa [orMasks] using congrArg (m.getLsbD n || ·) ih

@[simp] theorem orMasks_nil : orMasks [] = 0 := rfl

/-- The off-mask never meets the on-mask. -/
theorem offMask_and_on (p : Params) (on : Word) : offMask p on &&& on = 0 := by
  apply BitVec.eq_of_getLsbD_eq
  intro n hn
  simp [offMask]
  grind

/-- The off-mask never holds the reserved bit. -/
theorem offMask_and_reserved (p : Params) (on : Word) : offMask p on &&& p.reservedMask = 0 := by
  apply BitVec.eq_of_getLsbD_eq
  intro n hn
  simp [offMask]

/-- A micro-step writes entry `CUR` of the array it builds and no other entry of it. -/
theorem buildStep_activeArray {s : State} (hs : s.sched.wf = true) (hh : s.shadow.wf = true) (k : Nat) :
    (buildStep s).activeArray.read k =
      if k = s.cur.toNat then targetMask s.params s.b s.cur.toNat else s.activeArray.read k := by
  cases h : s.params.strictSwap with
  | false => simp [State.activeArray, h, buildStep_sched s h, Memory.read_write hs]
  | true => simp [State.activeArray, h, buildStep_shadow_strict s h, Memory.read_write hh]

end Sys2Proof.Machine
end

