-- ==== Sys2Proof/Laws/Step.lean ====
section
/-! SUPPORT. Everything a step of the machine can do, said once. -/

namespace Sys2Proof.Machine

/-- What one step of the agents answers with a next state: the frame step, a build micro-step, a command, or nothing. -/
theorem agentStep_next {s t : State} (h : agentStep s = .next t) :
    (s.fp = true ∧ t = frameStep s) ∨
    (s.fp = false ∧ s.busy = true ∧ t = buildStep s) ∨
    (s.fp = false ∧ s.busy = false ∧ ∃ w c, s.port = some w ∧ decode w = .ok c ∧
      exec c { s with port := none } = .next t) ∨
    (s.Quiescent ∧ t = s) := by
  unfold agentStep agentLStep at h
  split at h
  · exact .inl ⟨‹_›, by injection h with h; exact h.symm⟩
  · have hfp : s.fp = false := by simpa using ‹¬ s.fp = true›
    split at h
    · exact .inr (.inl ⟨hfp, ‹_›, by injection h with h; exact h.symm⟩)
    · have hb : s.busy = false := by simpa using ‹¬ s.busy = true›
      split at h
      · rename_i w hw
        unfold acceptCommand at h
        split at h
        · rename_i c hc
          exact .inr (.inr (.inl ⟨hfp, hb, w, c, hw, hc, h⟩))
        · cases h
      · exact .inr (.inr (.inr ⟨⟨hb, ‹_›, hfp⟩, by injection h with h; exact h.symm⟩))

/-- On the agents' turn the step of the machine is the agents' step. -/
theorem step_of_agentsTurn {s : State} {rest : List EnvMove} (h : s.AgentsTurn rest) :
    step s = agentStep { s with env := rest } := by
  rcases h with ⟨h1, rfl⟩ | h | ⟨hp, rfl, w, more, h⟩
  · simp only [step, machineStep, h1]; rw [← h1]
  · simp only [step, machineStep, h]
  · obtain ⟨u, hu⟩ := Option.ne_none_iff_exists'.1 hp
    have : step s = agentStep s := by simp only [step, machineStep, h, hu]
    exact this

/-- What one step of the machine answers with a next state: a move of the environment or a step of the agents. -/
theorem step_next {s t : State} (h : step s = .next t) :
    (∃ rest, s.env = .frameRequest :: rest ∧ t = raiseFrameRequest { s with env := rest }) ∨
    (∃ l rest, s.env = .debugLine l :: rest ∧ t = driveDebugLine { s with env := rest } l) ∨
    (∃ w rest, s.env = .command w :: rest ∧ s.port = none ∧ t = presentCommand { s with env := rest } w) ∨
    (∃ rest, s.AgentsTurn rest ∧ agentStep { s with env := rest } = .next t) := by
  cases he : s.env with
  | nil =>
    have ht : s.AgentsTurn [] := .inl ⟨he, rfl⟩
    exact .inr (.inr (.inr ⟨_, ht, step_of_agentsTurn ht ▸ h⟩))
  | cons m rest =>
    cases m with
    | agents =>
      have ht : s.AgentsTurn rest := .inr (.inl he)
      exact .inr (.inr (.inr ⟨_, ht, step_of_agentsTurn ht ▸ h⟩))
    | frameRequest =>
      simp only [step, machineStep, he] at h
      injection h with h
      exact .inl ⟨rest, rfl, h.symm⟩
    | debugLine l =>
      simp only [step, machineStep, he] at h
      injection h with h
      exact .inr (.inl ⟨l, rest, rfl, h.symm⟩)
    | command w =>
      by_cases hp : s.port = none
      · simp only [step, machineStep, he, hp] at h
        injection h with h
        exact .inr (.inr (.inl ⟨w, rest, rfl, hp, by rw [← h, ← hp]⟩))
      · have ht : s.AgentsTurn s.env := .inr (.inr ⟨hp, rfl, w, rest, he⟩)
        rw [← he]
        exact .inr (.inr (.inr ⟨_, ht, step_of_agentsTurn ht ▸ h⟩))

/-! ### The work of agent L -/

/-- A step that is not agent L's leaves L's work alone: the build stands where it was and a waiting word goes on
waiting. -/
theorem step_keeps_work {s t : State} (h : step s = .next t) (hn : ¬ s.AgentLSteps) :
    t.params = s.params ∧ t.b = s.b ∧ t.sched = s.sched ∧ t.shadow = s.shadow ∧ t.busy = s.busy ∧ t.cur = s.cur ∧
      ∀ w, s.port = some w → t.port = some w := by
  obtain ⟨rest, _, rfl⟩ | ⟨l, rest, _, rfl⟩ | ⟨w, rest, _, hp, rfl⟩ | ⟨rest, ht, h⟩ := step_next h
  · simp
  · simp
  · simp [hp]
  · obtain ⟨_, rfl⟩ | ⟨hf, hb, rfl⟩ | ⟨hf, _, w, _, hp, -⟩ | ⟨_, rfl⟩ := agentStep_next h
    · simp
    · exact absurd ⟨⟨rest, ht⟩, hf, .inl hb⟩ hn
    · exact absurd ⟨⟨rest, ht⟩, hf, .inr (by simp_all)⟩ hn
    · simp

/-- What a step of agent L is: a build micro-step, or the waiting word executed. -/
theorem step_agentL {s t : State} (h : step s = .next t) (hL : s.AgentLSteps) :
    ∃ rest, (s.busy = true ∧ t = buildStep { s with env := rest }) ∨
      (s.busy = false ∧ ∃ w c, s.port = some w ∧ decode w = .ok c ∧
        exec c { s with env := rest, port := none } = .next t) := by
  obtain ⟨⟨rest, ht⟩, hf, hw⟩ := hL
  rw [step_of_agentsTurn ht] at h
  refine ⟨rest, ?_⟩
  obtain ⟨hf', _⟩ | ⟨_, hb, rfl⟩ | ⟨_, hb, hc⟩ | ⟨hq, _⟩ := agentStep_next h
  · simp_all
  · exact .inl ⟨hb, rfl⟩
  · exact .inr ⟨hb, hc⟩
  · simp_all [State.Quiescent, State.AgentLEnabled]

end Sys2Proof.Machine
end

