-- ==== Sys2Proof/Tests/Slice0.lean ====
section
/-! SUPPORT. The model's own tests: words written out from spec/30_encoding.md, the vectors V<n> and programs P<n> of
spec/95_test_vectors.md one step at a time, the ill-formed terms each check refuses, and for every statement with
hypotheses a concrete state and operands that meet them. -/

namespace Sys2Proof.Tests

open Sys2Proof Sys2Proof.Machine

/-! ### Test configurations (spec/95_test_vectors.md section 0) -/

/-- Configuration T0 with the given first brightness values, all others 0. -/
def t0 (bs : List Byte) : State := { State.reset with b := bs ++ List.replicate (19 - bs.length) 0 }

/-- Configuration T2: overlapping masks, `DEBUG_BIT = 7`. -/
def paramsT2 : Params := ⟨[0x3, 0x4, 0x6], 7, false, List.replicate 256 0, false⟩

/-- T2 with `STRICT_SWAP`. -/
def paramsStrict : Params := ⟨[0x3, 0x4, 0x6], 7, false, List.replicate 256 0, true⟩

/-- T2 with the brightness store of vector V38. -/
def t2 : State := { State.atReset paramsT2 0 with b := [10, 5, 20] }

/-- The next state of an outcome, if it is one. -/
def nextState? : Host.Outcome State Fault Refusal → Option State
  | .next s => some s
  | .fault _ => none
  | .refused _ => none

def faultOf? : Host.Outcome State Fault Refusal → Option Fault
  | .fault f => some f
  | .next _ => none
  | .refused _ => none

def refusalOf? : Host.Outcome State Fault Refusal → Option Refusal
  | .refused r => some r
  | .next _ => none
  | .fault _ => none

/-- The brightness store a command leaves. -/
def storeAfter (c : Instr) (s : State) : Option (List Byte) := (nextState? (exec c s)).map (·.b)

/-- The responses a command leaves. -/
def responsesAfter (c : Instr) (s : State) : Option (List Word) := (nextState? (exec c s)).map (·.responses)

/-! ### Decoding: one word per command, bits written out from rules R52, R53, R55 -/

theorem test_decode_get : decodeTableWord 32 0x10001200 = some (.get 18) := by decide
theorem test_decode_set : decodeTableWord 32 0x200003FA = some (.set 3 250) := by decide
theorem test_decode_adds : decodeTableWord 32 0x3000030A = some (.adds 3 10) := by decide
theorem test_decode_addsAll : decodeTableWord 32 0x38000080 = some (.addsAll 128) := by decide
theorem test_decode_subs : decodeTableWord 32 0x40000314 = some (.subs 3 20) := by decide
theorem test_decode_subsAll : decodeTableWord 32 0x4800000A = some (.subsAll 10) := by decide
theorem test_decode_addw : decodeTableWord 32 0x5000030A = some (.addw 3 10) := by decide
theorem test_decode_addwAll : decodeTableWord 32 0x5800000A = some (.addwAll 10) := by decide
theorem test_decode_subw : decodeTableWord 32 0x60000301 = some (.subw 3 1) := by decide
theorem test_decode_subwAll : decodeTableWord 32 0x68000081 = some (.subwAll 129) := by decide
theorem test_decode_rotl : decodeTableWord 32 0x70001400 = some (.rotl 20) := by decide
theorem test_decode_rotr : decodeTableWord 32 0x80000100 = some (.rotr 1) := by decide
theorem test_decode_rebuild : decodeTableWord 32 0x90000000 = some .rebuild := by decide
theorem test_decode_onmask : decodeTableWord 32 0xA0007F00 = some (.onmask 127) := by decide
theorem test_decode_offmask : decodeTableWord 32 0xB000FF00 = some (.offmask 255) := by decide

/-- The refusals of spec/95_test_vectors.md section 2.5. -/
theorem test_reserved_words : [0x00000000, 0xFFFFFFFF, 0xC0000000, 0x10000001, 0x70000001, 0xA0000001, 0x90000100,
    0x38000100, 0x18000000, 0x28000000, 0x20010000].all (fun w => decodeTableWord 32 w == none) = true := by decide

/-- Example of rule R59: `SET 3, 250` is 0x200003FA. -/
theorem test_encode_set : encode (.set 3 250) = 0x200003FA := by decide
theorem test_encode_subsAll : encode (.subsAll 200) = 0x480000C8 := by decide

/-! ### WellFormed: an ill-formed term for each check (N = 19, vectors V22, V23) -/

theorem test_wf_get : Instr.wellFormed 19 (.get 255) = false := by decide
theorem test_wf_set : Instr.wellFormed 19 (.set 19 0) = false := by decide
theorem test_wf_adds : Instr.wellFormed 19 (.adds 19 1) = false := by decide
theorem test_wf_subs : Instr.wellFormed 19 (.subs 20 1) = false := by decide
theorem test_wf_addw : Instr.wellFormed 19 (.addw 19 1) = false := by decide
theorem test_wf_subw : Instr.wellFormed 19 (.subw 100 1) = false := by decide
theorem test_wf_accepts_last : Instr.wellFormed 19 (.get 18) = true := by decide

/-! ### Construction: each clause of `Params.legal` refuses (spec/93_implementation_defined.md U10) -/

theorem test_legal_T2 : paramsT2.legal = true := by decide +kernel
theorem test_illegal_no_channel : ({ paramsT2 with pinMap := [] } : Params).legal = false := by decide +kernel
theorem test_illegal_zero_mask : ({ paramsT2 with pinMap := [0, 1] } : Params).legal = false := by decide +kernel
theorem test_illegal_equal_masks : ({ paramsT2 with pinMap := [3, 3] } : Params).legal = false := by decide +kernel
theorem test_illegal_reserved_bit : ({ paramsT2 with pinMap := [0x80] } : Params).legal = false := by decide +kernel
theorem test_illegal_debug_bit : ({ paramsT2 with debugBit := 32 } : Params).legal = false := by decide +kernel
theorem test_illegal_curve : ({ paramsT2 with curve := [] } : Params).legal = false := by decide +kernel
theorem test_illegal_too_many : ({ paramsT2 with pinMap := List.replicate 256 1 } : Params).legal = false := by
  decide +kernel
theorem test_reference_legal : Params.reference.legal = true := by decide +kernel

/-! ### Commands (vectors V1 to V23) -/

theorem test_get_V3 : responsesAfter (.get 3) (t0 [0, 0, 0, 250]) = some [0xFA] := by decide
theorem test_get_V23 : faultOf? (exec (.get 255) (t0 [])) = some (.indexRange 255) := by decide
theorem test_set_V4 : (storeAfter (.set 18 1) (t0 [])).map (·.getD 18 0) = some 1 := by decide
theorem test_set_V22 : faultOf? (exec (.set 19 0) (t0 [])) = some (.indexRange 19) := by decide
theorem test_adds_V5 : storeAfter (.adds 3 5) (t0 [0, 0, 0, 250]) = some (t0 [0, 0, 0, 255]).b := by decide
theorem test_adds_V6 : storeAfter (.adds 3 6) (t0 [0, 0, 0, 250]) = some (t0 [0, 0, 0, 255]).b := by decide
theorem test_subs_V7 : storeAfter (.subs 3 9) (t0 [0, 0, 0, 9]) = some (t0 []).b := by decide
theorem test_subs_V8 : storeAfter (.subs 3 10) (t0 [0, 0, 0, 9]) = some (t0 []).b := by decide
theorem test_addw_V9 : storeAfter (.addw 3 1) (t0 [0, 0, 0, 255]) = some (t0 []).b := by decide
theorem test_subw_V10 : storeAfter (.subw 3 255) (t0 []) = some (t0 [0, 0, 0, 1]).b := by decide
theorem test_addsAll_V11 : storeAfter (.addsAll 10) (t0 [250]) = some (255 :: List.replicate 18 10) := by decide
theorem test_subsAll_V12 : storeAfter (.subsAll 10) (t0 [20, 5]) = some (t0 [10]).b := by decide
theorem test_addwAll_V13 : storeAfter (.addwAll 10) (t0 [250]) = some (4 :: List.replicate 18 10) := by decide
theorem test_subwAll_V14 : storeAfter (.subwAll 10) (t0 [5]) = some (251 :: List.replicate 18 246) := by decide
theorem test_rotl_V15 : storeAfter (.rotl 1) (t0 [10, 20, 30]) = some ([20, 30] ++ List.replicate 16 0 ++ [10]) := by
  decide
theorem test_rotl_V20 : (storeAfter (.rotl 255) (t0 [10, 20, 30])).map (fun b => (b.drop 11).take 3) =
    some [10, 20, 30] := by decide
theorem test_rotr_V16 : storeAfter (.rotr 1) (t0 [10, 20, 30]) = some (t0 [0, 10, 20, 30]).b := by decide
theorem test_rotr_P6 : storeAfter (.rotl 4) { t2 with b := [10, 5, 20] } = some [5, 20, 10] := by decide

/-! ### Builder and look-ups (vectors V30, V34, V37, V38) -/

theorem test_rebuild : (nextState? (exec .rebuild t2)).map (fun t => (t.busy, t.cur, t.sched)) =
    some (true, 0, []) := by decide
theorem test_targetMask_V38 : [4, 5, 9, 10, 19, 20].map (targetMask paramsT2 [10, 5, 20]) = [7, 7, 7, 6, 6, 0] := by
  decide
theorem test_targetMask_strict : targetMask Params.reference (t0 [128]).b 127 = 1 ∧
    targetMask Params.reference (t0 [128]).b 128 = 0 := by decide
/-- The curve stage: a stored 15 maps to 0, a stored 255 to 255 (vector V37's curve at those two points). -/
theorem test_targetMask_curve :
    targetMask { paramsT2 with useCurve := true, curve := List.replicate 255 0 ++ [255] } [255, 15, 0] 254 = 3 := by
  decide +kernel
theorem test_thresholds_V35 : thresholds Params.reference (t0 [20, 30]).b = [0, 20, 30, 255] := by decide +kernel
theorem test_buildStep_V38 : (buildStep { t2 with busy := true, cur := 10 }).sched = [(10, 6)] := by decide
theorem test_buildStep_last : (buildStep { t2 with busy := true, cur := 254, sched := [(254, 7)] }).sched = [] ∧
    (buildStep { t2 with busy := true, cur := 254 }).busy = false ∧
    (buildStep { t2 with busy := true, cur := 254 }).cur = 255 := by decide
theorem test_onmask_P6 : responsesAfter (.onmask 10) { t2 with sched := [(10, 6)] } = some [0x6] := by decide
theorem test_offmask_V38 : responsesAfter (.offmask 10) { t2 with sched := [(10, 6)] } = some [0xFFFFFF79] := by decide
/-- Rule R39: with STRICT_SWAP the Schedule is untouched before the last micro-step. -/
theorem test_buildStep_strict :
    let s := buildStep { t2 with params := paramsStrict, busy := true, cur := 3 }
    (s.sched, s.shadow) = ([], [(3, 7)]) := by decide
theorem test_buildStep_strict_swap :
    let arrays : State := { t2 with params := paramsStrict, shadow := [(3, 7), (9, 7)], sched := [(3, 1), (8, 1)] }
    (buildStep { arrays with busy := true, cur := 254 }).sched = [(3, 7), (9, 7)] := by decide +kernel

/-! ### Frame step (vectors V40, V41, V46 and the latch) -/

theorem test_frame_V40 : let s := frameStep { t0 [] with fp := true }
    (s.ph, s.fp, s.pinEvents) = (1, false, [⟨0x00000000, 0x7FFFFFFF⟩]) := by decide
theorem test_frame_V41 : let s := frameStep { t0 [] with ph := 255, fp := true, pins := 0xFFFFFFFF, sched := [(0, 0x7FFFF)] }
    (s.ph, s.pinEvents, s.pins) = (0, [⟨0x0007FFFF, 0x7FF80000⟩], 0x8007FFFF) := by decide
theorem test_frame_V46 : (frameStep { t2 with ph := 9, sched := [(10, 6)] }).pinEvents =
    [⟨0x00000006, 0xFFFFFF79⟩] := by decide

/-! ### Steps of the machine -/

/-- A pending frame request goes before a waiting command. -/
theorem test_step_priority : (nextState? (step { t2 with fp := true, port := some 0x90000000 })).map
    (fun t => (t.ph, t.port)) = some (1, some 0x90000000) := by decide
/-- A build goes on while a command waits (rule R51). -/
theorem test_step_busy : (nextState? (step { t2 with busy := true, cur := 2, port := some 0x90000000 })).map
    (fun t => (t.cur, t.port)) = some (3, some 0x90000000) := by decide
/-- Program P6's first command as the first instruction after reset. -/
theorem test_step_first_after_reset : (nextState? (step (State.reset.withFetchWord 32 0x2000000A))).map
    (fun t => (t.readB 0, t.port, t.env)) = some (10, none, []) := by decide
theorem test_step_reserved : refusalOf? (step { t2 with port := some 0x10000001 }) =
    some (.reservedWord 0x10000001) := by decide
/-- Vector V44: two requests and one frame step advance the phase by one. -/
theorem test_frame_requests_merge :
    (nextState? (Sys2Proof.core.run 3 { t2 with env := [.frameRequest, .frameRequest] })).map
      (fun t => (t.ph, t.fp)) = some (1, false) := by decide
/-- The host waits with its word at the occupied port; the agents go on. -/
theorem test_host_waits :
    (nextState? (step { t2 with port := some 0x20000005, env := [.command 0x90000000] })).map
      (fun t => (t.readB 0, t.port, t.env)) = some (5, none, [.command 0x90000000]) := by decide
theorem test_debug_line : (nextState? (step { t2 with pins := 0xF, env := [.debugLine true] })).map (·.pins) =
    some 0x8F := by decide

/-! ### Witnesses: for each statement with hypotheses, operands that meet all of them -/

theorem clear_nil (mask : Word) : Memory.ClearOf mask [] := by intro t; simp

theorem t2_inv : t2.Inv := by
  refine ⟨test_legal_T2, rfl, rfl, rfl, rfl, clear_nil _, clear_nil _, ?_, ?_⟩
  · intro h; cases h
  · intro h; cases h

/-- T2 in a build with the cursor at 1: entry 0 is built, entry 5 is old. -/
def building : State := { t2 with busy := true, cur := 1, sched := [(0, 7), (5, 1)] }

theorem building_read (t : Nat) : building.sched.read t = if 0 = t then 7 else if 5 = t then 1 else 0 := by
  simp [building, Memory.read, unlisted]

theorem building_inv : building.Inv := by
  refine ⟨test_legal_T2, rfl, rfl, rfl, rfl, ?_, clear_nil _, ?_, ?_⟩
  · intro t
    rw [building_read]
    split
    · decide
    · split <;> decide
  · intro _; decide
  · intro _ t ht
    have : t = 0 := by simp [building] at ht; omega
    subst this; decide

/-- T2 with `STRICT_SWAP`, in a build with the cursor at `c`; all channels dark, so every mask is 0. -/
def strictBuilding (c : Byte) : State :=
  { State.atReset paramsStrict 0 with busy := true, cur := c }

theorem dark_mask (t : Nat) : targetMask paramsStrict [0, 0, 0] t = 0 := by
  have h : ∀ i, effAt paramsStrict [0, 0, 0] i = 0 := by
    intro i
    simp only [effAt, effective, paramsStrict]
    rcases i with _ | _ | _ | i <;> rfl
  simp only [targetMask, h, orMasks]
  simp

theorem strictBuilding_inv (c : Byte) (hc : c.toNat ≤ 254) : (strictBuilding c).Inv := by
  refine ⟨?_, rfl, rfl, rfl, rfl, clear_nil _, clear_nil _, fun _ => hc, ?_⟩
  · exact show paramsStrict.legal = true by decide +kernel
  · intro _ t _
    exact (dark_mask t).symm

theorem witness_construction : paramsT2.legal = true ∧ Params.reference.legal = true :=
  ⟨test_legal_T2, test_reference_legal⟩
theorem witness_curve_dark_at_zero : Params.reference.CurveZero := by unfold Params.CurveZero; decide
theorem witness_curve_lights_zero :
    let p : Params := { paramsT2 with useCurve := true, curve := List.replicate 256 5 }
    p.legal = true ∧ p.useCurve = true ∧ ¬ p.CurveZero :=
  ⟨by decide +kernel, rfl, by unfold Params.CurveZero; decide⟩
theorem witness_illegal_zero : ∃ i, i < ({ paramsT2 with pinMap := [1, 0] } : Params).n ∧
    ({ paramsT2 with pinMap := [1, 0] } : Params).pin i = 0 := ⟨1, by decide, by decide⟩
theorem witness_illegal_equal : ∃ i j, i < ({ paramsT2 with pinMap := [1, 1] } : Params).n ∧
    j < ({ paramsT2 with pinMap := [1, 1] } : Params).n ∧ i ≠ j ∧
    ({ paramsT2 with pinMap := [1, 1] } : Params).pin i = ({ paramsT2 with pinMap := [1, 1] } : Params).pin j :=
  ⟨0, 1, by decide, by decide, by decide, rfl⟩
theorem witness_illegal_reserved : ∃ i, i < ({ paramsT2 with pinMap := [0x81] } : Params).n ∧
    ({ paramsT2 with pinMap := [0x81] } : Params).pin i &&& ({ paramsT2 with pinMap := [0x81] } : Params).reservedMask ≠ 0 :=
  ⟨0, by decide, by decide⟩
theorem witness_decode_ok : decode 0x90000000 = .ok .rebuild := rfl
theorem witness_row_hit : ∃ r ∈ opcodeTable, r.hits 0x90000000 = true :=
  ⟨⟨"REBUILD", 0x90000000, 0xFFFFFFFF⟩, by decide, by decide⟩
theorem witness_step_runs : ∃ s rest w c, State.AgentsTurn s rest ∧ s.fp = false ∧ s.busy = false ∧ s.port = some w ∧
    decode w = .ok c :=
  ⟨{ t2 with port := some 0x90000000 }, [], _, _, .inl ⟨rfl, rfl⟩, rfl, rfl, rfl, witness_decode_ok⟩
/-- The host waiting with its next word is also the agents' turn. -/
theorem witness_step_runs_host_waits : ∃ s rest w c, State.AgentsTurn s rest ∧ rest ≠ [] ∧ s.fp = false ∧
    s.busy = false ∧ s.port = some w ∧ decode w = .ok c :=
  ⟨{ t2 with port := some 0x90000000, env := [.command 0x90000000] }, [.command 0x90000000], _, _,
    .inr (.inr ⟨Option.some_ne_none _, rfl, _, [], rfl⟩), List.cons_ne_nil _ _, rfl, rfl, rfl, witness_decode_ok⟩
theorem witness_reserved : ∃ s rest w, State.AgentsTurn s rest ∧ s.fp = false ∧ s.busy = false ∧ s.port = some w ∧
    ∀ r ∈ opcodeTable, r.hits w = false :=
  ⟨{ t2 with port := some 0xFFFFFFFF, env := [.agents] }, [], _, .inr (.inl rfl), rfl, rfl, rfl, by decide⟩
theorem witness_frame_first : ∃ s rest, State.AgentsTurn s rest ∧ s.fp = true ∧ s.busy = true ∧ s.port ≠ none :=
  ⟨{ building with fp := true, port := some 0 }, [], .inl ⟨rfl, rfl⟩, rfl, rfl, Option.some_ne_none _⟩
theorem witness_port_held_off : ∃ s rest, State.AgentsTurn s rest ∧ s.fp = false ∧ s.busy = true ∧ s.port ≠ none :=
  ⟨{ building with port := some 0 }, [], .inl ⟨rfl, rfl⟩, rfl, rfl, Option.some_ne_none _⟩
theorem witness_quiescent : ∃ s rest, State.AgentsTurn s rest ∧ s.Quiescent := ⟨t2, [], .inl ⟨rfl, rfl⟩, rfl, rfl, rfl⟩
theorem witness_environment : ∃ s w rest, State.env s = .command w :: rest ∧ s.port = none :=
  ⟨{ t2 with env := [.command 0] }, 0, [], rfl, rfl⟩
theorem witness_frame_request : ∃ s rest, State.env s = .frameRequest :: .frameRequest :: rest :=
  ⟨{ t2 with env := [.frameRequest, .frameRequest] }, [], rfl⟩
theorem witness_debug_line : ∃ s rest, s.params.debugBit < 32 ∧ State.env s = .debugLine true :: rest :=
  ⟨{ t2 with env := [.debugLine true] }, [], by decide, rfl⟩
/-- In range at the last channel, and out of range at the first index past it. -/
theorem witness_channel : State.Sized t2 ∧ (2 : Byte).toNat < t2.params.n ∧ t2.params.n ≤ (3 : Byte).toNat := by
  refine ⟨rfl, by decide, by decide⟩
theorem witness_set_same_value : t2.readB (2 : Byte).toNat = 20 := by decide
theorem witness_rotation : State.Sized t2 ∧ exec (.rotl 1) t2 = .next (t2.permuteB (rotlSource 3 1)) := ⟨rfl, rfl⟩
theorem witness_fade : State.Sized t2 ∧ 1 ≤ (2 : Byte).toNat ∧ (255 + (2 : Byte).toNat - 1) / (2 : Byte).toNat ≤ 128 := by
  refine ⟨rfl, by decide, by decide⟩
/-- A step that changes the store. -/
theorem witness_store_changes : ∃ t, step { t2 with port := some 0x20000001 } = .next t ∧ t.b ≠ t2.b :=
  ⟨_, rfl, by decide⟩
theorem witness_step_in_build : ∃ t, building.busy = true ∧ step building = .next t := ⟨_, rfl, rfl⟩
theorem witness_command_completes : ∃ t, Instr.isBrightness (.addw 1 9) = true ∧ exec (.addw 1 9) t2 = .next t :=
  ⟨_, rfl, rfl⟩
theorem witness_domain : Instr.wellFormed t2.params.n (.get 2) = true ∧ Instr.wellFormed t2.params.n (.get 3) = false := by
  decide
theorem witness_dark : ∀ i, i < t2.params.n → (effAt t2.params t2.b i).toNat ≤ 20 := by decide
theorem witness_microstep : building.Inv ∧ building.params.strictSwap = false ∧ building.busy = true :=
  ⟨building_inv, rfl, rfl⟩
theorem witness_rebuild : ∃ t, t2.Inv ∧ exec .rebuild t2 = .next t := ⟨_, t2_inv, rfl⟩
theorem witness_fresh_step : ∃ s t, State.Fresh s ∧ s.busy = false ∧ step s = .next t ∧ t.b = s.b := by
  refine ⟨{ State.atReset paramsStrict 0 with fp := true }, _, ?_, rfl, rfl, rfl⟩
  intro t _
  exact (dark_mask t).symm
theorem witness_midbuild : ∃ t, building.MidBuild building.sched ∧ step building = .next t := by
  refine ⟨_, ?_, rfl⟩
  intro t _
  split
  · have : t = 0 := by simp [building] at *; omega
    subst this; decide
  · rfl
theorem witness_strict : ∀ c : Byte, c.toNat ≤ 254 →
    (strictBuilding c).Inv ∧ (strictBuilding c).params.strictSwap = true ∧ (strictBuilding c).busy = true :=
  fun c hc => ⟨strictBuilding_inv c hc, rfl, rfl⟩
theorem witness_strict_boundary : (strictBuilding 253).Inv ∧ (strictBuilding 254).Inv ∧ (254 : Byte) = 254 :=
  ⟨strictBuilding_inv 253 (by decide), strictBuilding_inv 254 (by decide), rfl⟩
theorem witness_lookup : t2.Inv ∧ t2.readS (255 : Byte).toNat &&& t2.params.reservedMask = 0 := ⟨t2_inv, rfl⟩
theorem witness_frame_reads : ∃ s s' : State, (∀ t, t < 256 → s.readS t = s'.readS t) ∧ s.ph = s'.ph ∧
    s.params.debugBit = s'.params.debugBit ∧ s.b ≠ s'.b :=
  ⟨t2, { t2 with b := [0, 0, 0] }, fun _ _ => rfl, rfl, rfl, by decide⟩
theorem witness_phase_moves : ∃ t, step { t2 with fp := true } = .next t ∧ t.ph ≠ t2.ph := ⟨_, rfl, by decide⟩
theorem witness_walk : State.env { t2 with env := framePeriods 2 } = framePeriods 2 := rfl
theorem witness_duty : ∃ s : State, s.Fresh ∧ s.env = framePeriods 256 ∧ s.params.n = 3 := by
  refine ⟨{ State.atReset paramsStrict 0 with env := framePeriods 256 }, ?_, rfl, rfl⟩
  intro t _
  exact (dark_mask t).symm
theorem witness_disjoint : ({ paramsT2 with pinMap := [0x1, 0x2] } : Params).DisjointPins := by
  intro i j hi hj hne
  simp [Params.n] at hi hj
  rcases i with _ | _ | i <;> rcases j with _ | _ | j <;> first | omega | decide
theorem witness_timer_off : ∃ t, State.FrameTimerOff { t2 with port := some 0x90000000 } ∧
    step { t2 with port := some 0x90000000 } = .next t := ⟨_, ⟨rfl, by simp [t2, State.atReset]⟩, rfl⟩
theorem witness_invariant_step : ∃ t, building.Inv ∧ step building = .next t := ⟨_, building_inv, rfl⟩
theorem witness_host_legal : State.HostLegal { t2 with port := some 0x10000200, env := [.command 0x90000000] } := by
  constructor
  · intro w hw
    have : w = 0x10000200 := by simpa using hw.symm
    subst this
    exact ⟨.get 2, rfl, by decide⟩
  · intro w hw
    have : w = 0x90000000 := by simpa using hw
    subst this
    exact ⟨.rebuild, rfl, by decide⟩

/-! ### A fair endless run with endless frame requests (rule R148) -/

/-- A frame request before every third step. -/
def requests (k : Nat) : List EnvMove := if k % 3 = 0 then [.frameRequest] else []

/-- Under `requests`, from a build with a REBUILD waiting at the port: the request lands, the frame step is taken, agent
L steps, over and over. -/
def fairRun : Nat → State
  | 0 => { building with port := some 0x90000000 }
  | k + 1 =>
    match step ((fairRun k).supply (requests k)) with
    | .next t => t
    | .fault _ => fairRun k
    | .refused _ => fairRun k

/-- Where `fairRun` stands before step `k`. -/
def OnTrack (k : Nat) (s : State) : Prop :=
  s.env = [] ∧ (s.fp = true ↔ k % 3 = 1) ∧ (s.port = none ∨ s.port = some 0x90000000)

theorem onTrack_step {k : Nat} {s : State} (h : OnTrack k s) :
    ∃ t, step (s.supply (requests k)) = .next t ∧ OnTrack (k + 1) t := by
  obtain ⟨he, hf, hp⟩ := h
  by_cases h0 : k % 3 = 0
  · exact ⟨raiseFrameRequest { s with env := [] }, by simp [step, machineStep, State.supply, requests, h0, he], rfl,
      by simp; omega, hp⟩
  · have hs : s.supply (requests k) = s := by simp [State.supply, requests, h0]
    have ht : step s = agentStep s := by simp only [step, machineStep, he]
    rw [hs, ht]
    by_cases h1 : k % 3 = 1
    · exact ⟨frameStep s, by simp [agentStep, hf.2 h1], he, by simp; omega, hp⟩
    · have hfp : s.fp = false := by simpa [h1] using hf
      cases hb : s.busy with
      | true =>
        exact ⟨buildStep s, by simp [agentStep, agentLStep, hfp, hb], by simpa using he, by simp [hfp]; omega,
          by simpa using hp⟩
      | false =>
        rcases hp with hp | hp
        · exact ⟨s, by simp [agentStep, agentLStep, hfp, hb, hp], he, by simp [hfp]; omega, .inl hp⟩
        · exact ⟨{ s with port := none, busy := true, cur := 0 },
            by rw [agentStep, if_neg (by simp [hfp]), agentLStep, if_neg (by simp [hb])]; simp only [hp]; rfl, he, by simp [hfp]; omega, .inl rfl⟩

theorem fairRun_succ {k : Nat} (h : OnTrack k (fairRun k)) :
    step ((fairRun k).supply (requests k)) = .next (fairRun (k + 1)) ∧ OnTrack (k + 1) (fairRun (k + 1)) := by
  obtain ⟨t, ht, h'⟩ := onTrack_step h
  have e : fairRun (k + 1) = t := by rw [fairRun, ht]
  exact e ▸ ⟨ht, h'⟩

theorem fairRun_onTrack : ∀ k, OnTrack k (fairRun k)
  | 0 => ⟨rfl, by decide, .inr rfl⟩
  | k + 1 => (fairRun_succ (fairRun_onTrack k)).2

/-- The premises of `FairAgentLMakesProgress`, with endless frame requests, at the start of the run. -/
theorem witness_fair_run : EndlessRun requests fairRun ∧ FairL requests fairRun ∧ (fairRun 0).Inv ∧
    (fairRun 0).busy = true ∧ (fairRun 0).port = some 0x90000000 := by
  refine ⟨fun k => (fairRun_succ (fairRun_onTrack k)).1, ?_, ?_, rfl, rfl⟩
  · rintro ⟨n, hn⟩ m
    obtain ⟨he, hf, _⟩ := fairRun_onTrack (3 * (n + m) + 2)
    have h0 : requests (3 * (n + m) + 2) = [] := by simp [requests]
    refine ⟨3 * (n + m) + 2, by omega, ⟨[], .inl ⟨by simp [he, h0], rfl⟩⟩, ?_, hn _ (by omega)⟩
    simp at hf
    simpa using hf
  · obtain ⟨h1, h2, h3, h4, h5, h6, h7, h8, h9⟩ := building_inv
    exact ⟨h1, h2, h3, h4, h5, h6, h7, h8, h9⟩
theorem witness_starved : building.busy = true ∧ building.env = [] := ⟨rfl, rfl⟩

end Sys2Proof.Tests
end

section
/-! SUPPORT. Construction and the parameters (spec/00_scope.md rules R4, R5): what a legal set is, clause by clause and
channel by channel, what `construct` answers, and that no step changes the parameters. -/

namespace Sys2Proof

/-! ### The pin map and legality -/

/-- `PIN_MAP[i]` of a channel is the entry of the list. -/
theorem Params.pin_eq_getElem {p : Params} {i : Nat} (h : i < p.n) : p.pin i = p.pinMap[i]'h :=
  (List.getElem_eq_getD 0).symm

/-- The mask of a channel is in the pin map. -/
theorem Params.pin_mem {p : Params} {i : Nat} (h : i < p.n) : p.pin i ∈ p.pinMap :=
  p.pin_eq_getElem h ▸ List.getElem_mem h

/-- The clauses of rules R4 and R5 that `Params.legal` checks. -/
theorem Params.legal_iff (p : Params) : p.legal = true ↔
    1 ≤ p.n ∧ p.n ≤ 255 ∧ p.debugBit ≤ 31 ∧ p.curve.length = 256 ∧ (∀ m ∈ p.pinMap, m ≠ 0) ∧ p.pinMap.Nodup ∧
      ∀ m ∈ p.pinMap, m &&& p.reservedMask = 0 := by
  simp [Params.legal, and_assoc]

section
variable {p : Params} {i j : Nat}

/-- Rule R5 (a). -/
theorem Params.pin_ne_zero_of_legal (h : p.legal = true) (hi : i < p.n) : p.pin i ≠ 0 := by
  obtain ⟨-, -, -, -, hzero, -, -⟩ := p.legal_iff.1 h
  exact hzero _ (pin_mem hi)

/-- Rule R5 (b). -/
theorem Params.pin_inj_of_legal (h : p.legal = true) (hi : i < p.n) (hj : j < p.n) (he : p.pin i = p.pin j) : i = j := by
  obtain ⟨-, -, -, -, -, hnodup, -⟩ := p.legal_iff.1 h
  rw [pin_eq_getElem hi, pin_eq_getElem hj] at he
  exact (hnodup.getElem_inj_iff).1 he

/-- Rule R5 (c). -/
theorem Params.pin_and_reservedMask_of_legal (h : p.legal = true) (hi : i < p.n) : p.pin i &&& p.reservedMask = 0 := by
  obtain ⟨-, -, -, -, -, -, hclear⟩ := p.legal_iff.1 h
  exact hclear _ (pin_mem hi)

end

/-- A set of two channels that share output line 0: rule R5 (d) allows it. -/
def Params.overlapping : Params := { Params.reference with pinMap := [0x1, 0x3] }

theorem Params.overlapping_legal : Params.overlapping.legal = true := by
  rw [legal_iff]
  refine ⟨by decide, by decide, by decide, ?_, ?_, by decide, ?_⟩
  · simp [overlapping, reference]
  · simp [overlapping]
  · simp [overlapping, reference, reservedMask]

theorem Params.overlapping_not_disjointPins : ¬ Params.overlapping.DisjointPins := fun h =>
  absurd (h 0 1 (by decide) (by decide) (by decide)) (by decide)

end Sys2Proof

namespace Sys2Proof.Machine

/-! ### What `construct` answers -/

theorem construct_of_legal {p : Params} (h : p.legal = true) (pins0 : Word) :
    construct p pins0 = .next (State.atReset p pins0) :=
  if_pos h

theorem construct_of_not_legal {p : Params} (h : ¬ p.legal = true) (pins0 : Word) :
    construct p pins0 = .refused .illegalParams :=
  if_neg h

/-! ### Steps keep the parameters -/

/-- No step of the machine changes the parameters: agent L's steps (micro-step, command) keep them, and every other
step leaves all that is agent L's alone. -/
theorem step_params {s t : State} (h : step s = .next t) : t.params = s.params := by
  by_cases hL : s.AgentLSteps
  · obtain ⟨rest, ⟨_, rfl⟩ | ⟨_, w, c, _, _, hexec⟩⟩ := step_agentL h hL
    · exact buildStep_params _
    · obtain ⟨-, rfl⟩ := exec_next hexec
      exact effectOf_params c _
  · obtain ⟨hparams, -⟩ := step_keeps_work h hL
    exact hparams

end Sys2Proof.Machine

open Sys2Proof Sys2Proof.Machine

/-- Settles O3 (it holds): each of R5 (a), (b), (c) follows from legality, so a set that breaks one is not legal and is
refused; `step_params` is the second part; `Params.overlapping` is constructed with masks that share a line. -/
theorem illegalParameterSetsAreRefused : Obligations.IllegalParameterSetsAreRefused := by
  refine ⟨fun p pins0 hbroken => construct_of_not_legal (fun hlegal => ?_) pins0, fun _ _ => step_params,
    Params.overlapping, _, construct_of_legal Params.overlapping_legal 0, Params.overlapping_not_disjointPins⟩
  obtain ⟨i, hi, hzero⟩ | ⟨i, j, hi, hj, hne, heq⟩ | ⟨i, hi, hreserved⟩ := hbroken
  · exact Params.pin_ne_zero_of_legal hlegal hi hzero
  · exact hne (Params.pin_inj_of_legal hlegal hi hj heq)
  · exact hreserved (Params.pin_and_reservedMask_of_legal hlegal hi)
end

section
/-! SUPPORT. The brightness store (spec/10_state.md rules R10, R11): what a write leaves to be read, that a rotation is
a list rotation, and which steps change the store. -/

namespace Sys2Proof.Machine

/-! ### Reads -/

@[simp] theorem readB_atReset (p : Params) (pins0 : Word) (i : Nat) : (State.atReset p pins0).readB i = 0 := by
  simp [State.readB]

/-- A write to an index of the store is read back. -/
theorem readB_writeB_same {s : State} {i : Nat} (h : i < s.b.length) (v : Byte) : (s.writeB i v).readB i = v := by
  simp [State.readB, h]

/-! ### Commands in their domain -/

/-- A command inside its valid input domain completes with its effect. -/
theorem exec_of_wellFormed {c : Instr} {s : State} (h : c.wellFormed s.params.n = true) :
    exec c s = .next (effectOf c s) := by
  rw [exec_eq, if_pos h]

/-- A command on a channel is in its domain when the channel index is below N (rule R44). -/
theorem wellFormed_of_channel {c : Instr} {i : Byte} {n : Nat} (hc : c.channel? = some i) (hi : i.toNat < n) :
    c.wellFormed n = true := by
  simp [Instr.wellFormed, hc, hi]

/-! ### Rotations -/

section
variable {s : State}

/-- Moving the value of channel `(i + m) mod N` to channel `i` is the library's rotation of the store by `m`. -/
theorem permuteB_eq_rotate (hs : s.Sized) {src : Nat → Nat} {m : Nat}
    (hsrc : ∀ i, i < s.params.n → src i = (i + m) % s.params.n) : (s.permuteB src).b = s.b.rotate m := by
  have hlen : s.b.length = s.params.n := hs
  refine List.ext_getElem (by simp [hlen]) fun i h _ => ?_
  have hi : i < s.params.n := by simpa using h
  have hmod : (i + m) % s.params.n < s.b.length := hlen ▸ Nat.mod_lt _ (by omega)
  simp [State.readB, List.getElem_rotate, hsrc i hi, hlen, List.getElem?_eq_getElem hmod]

/-- ROTL k rotates the store by `k` (rule R80). -/
theorem effectOf_rotl_b (hs : s.Sized) (k : Byte) : (effectOf (.rotl k) s).b = s.b.rotate k.toNat :=
  permuteB_eq_rotate hs fun _ _ => rfl

/-- ROTR k rotates the store by `N - (k mod N)` (rule R81). -/
theorem effectOf_rotr_b (hs : s.Sized) (k : Byte) :
    (effectOf (.rotr k) s).b = s.b.rotate (s.params.n - k.toNat % s.params.n) := by
  refine permuteB_eq_rotate hs fun i hi => ?_
  have hk : k.toNat % s.params.n < s.params.n := Nat.mod_lt _ (by omega)
  rw [rotrSource, Nat.add_sub_assoc hk.le]

end

/-! ### Which steps change the store -/

/-- A step that changes the store is agent L executing the waiting word, outside a build, and the word is a command
that writes brightness: a micro-step keeps the store, and so does every step that is not agent L's. -/
theorem step_changes_b {s t : State} (h : step s = .next t) (hb : t.b ≠ s.b) :
    s.busy = false ∧ ∃ w c, s.port = some w ∧ decode w = .ok c ∧ c.writesB = true := by
  by_cases hL : s.AgentLSteps
  · obtain ⟨rest, ⟨_, rfl⟩ | ⟨hbusy, w, c, hport, hdecode, hexec⟩⟩ := step_agentL h hL
    · exact absurd (buildStep_b _) hb
    · obtain ⟨-, rfl⟩ := exec_next hexec
      have hwrites : c.writesB = true := by
        by_contra hw
        exact hb (effectOf_b c _ (Bool.eq_false_iff.2 hw))
      exact ⟨hbusy, w, c, hport, hdecode, hwrites⟩
  · obtain ⟨-, hkept, -⟩ := step_keeps_work h hL
    exact absurd hkept hb

/-- The frame step commutes with any change of the store: it neither reads nor writes it (rule R10). -/
theorem frameStep_withB (s : State) (b' : List Byte) :
    frameStep { s with b := b' } = { frameStep s with b := b' } := rfl

end Sys2Proof.Machine

open Sys2Proof Sys2Proof.Machine

/-- Settles O31 (it holds): a command's effect keeps the parameters and the length of the store, and both rotations are
list rotations of the store. -/
theorem channelsStayInPlace : Obligations.ChannelsStayInPlace := by
  intro c s t hs hexec
  obtain ⟨-, rfl⟩ := exec_next hexec
  refine ⟨(effectOf_b_length c s hs).trans hs.symm, effectOf_params c s, ?_⟩
  rintro (⟨k, rfl⟩ | ⟨k, rfl⟩)
  · exact effectOf_rotl_b hs k ▸ List.rotate_perm _ _
  · exact effectOf_rotr_b hs k ▸ List.rotate_perm _ _

/-- Settles O34 (it holds): clause by clause, the turning point being `step_changes_b`. -/
theorem onlyBrightnessCommandsWriteTheStore : Obligations.OnlyBrightnessCommandsWriteTheStore := by
  refine ⟨fun p pins0 => ⟨by simp, fun i _ => readB_atReset p pins0 i⟩, fun i v s hs hi => ?_,
    fun _ _ => step_changes_b, fun i s hi => exec_of_wellFormed (wellFormed_of_channel rfl hi), fun _ _ => rfl,
    frameStep_withB⟩
  exact ⟨_, exec_of_wellFormed (wellFormed_of_channel rfl hi), readB_writeB_same (hs.symm ▸ hi) v⟩
end

section
/-! SUPPORT. The four arithmetic policies of the brightness commands (spec/40_brightness_ops.md rule R84), as sums and
differences of integers. -/

namespace Sys2Proof.Machine

section
variable (x y : Byte)

theorem addSat_toNat : (addSat x y).toNat = min 255 (x.toNat + y.toNat) := by
  rw [addSat, BitVec.toNat_ofNat]
  omega

theorem subSat_toNat : ((subSat x y).toNat : Int) = max 0 ((x.toNat : Int) - y.toNat) := by
  have hx := x.isLt
  rw [subSat, BitVec.toNat_ofNat]
  omega

theorem addWrap_toNat : (addWrap x y).toNat = (x.toNat + y.toNat) % 256 := by
  rw [addWrap, BitVec.toNat_ofNat]
  omega

/-- The 256 the model adds keeps the difference a natural number and does not change its remainder. -/
theorem subWrap_toNat : ((subWrap x y).toNat : Int) = ((x.toNat : Int) - y.toNat) % 256 := by
  have hy := y.isLt
  rw [subWrap, BitVec.toNat_ofNat]
  omega

end

end Sys2Proof.Machine

open Sys2Proof Sys2Proof.Machine

/-- Settles O19 (it holds): one lemma per policy. -/
theorem arithmeticPolicies : Obligations.ArithmeticPolicies :=
  fun x y => ⟨addSat_toNat x y, subSat_toNat x y, addWrap_toNat x y, subWrap_toNat x y⟩
end

section
/-! SUPPORT. The decoder on command words (spec/30_encoding.md rules R59, R62), and the six words of the commands on one
channel as spec/40_brightness_ops.md writes them. -/

namespace Sys2Proof

/-- The decoder gives back the command whose word it reads: it sees the five fields the encoder put there. -/
theorem decode_encode (c : Instr) : decode (encode c) = .ok c := by
  cases c <;>
    simp [decode, encode, opField_commandWord, allField_commandWord, zeroField_commandWord, idxField_commandWord,
      valField_commandWord, formatIV, formatAV, formatX, formatZ]

/-- The word of a command without the all-channels bit is `op << 28 | i << 8 | v`. -/
theorem commandWord_channel (op : Nat) (i v : Byte) :
    commandWord op false i v = BitVec.ofNat 32 op <<< 28 ||| i.setWidth 32 <<< 8 ||| v.setWidth 32 := by
  simp [commandWord]

/-- A word written as `op << 28 | i << 8 | v` decodes to the command that encodes to these fields. -/
theorem decode_of_channelWord {w : Word} {c : Instr} {op : Nat} {i v : Byte} (hc : encode c = commandWord op false i v)
    (hw : BitVec.ofNat 32 op <<< 28 = w) : decode (w ||| i.setWidth 32 <<< 8 ||| v.setWidth 32) = .ok c := by
  rw [← hw, ← commandWord_channel, ← hc, decode_encode]

end Sys2Proof
end

section
/-! SUPPORT. The commands on one channel (spec/40_brightness_ops.md rules R70 (e), R72 to R74, R76, R78, R82): the fault
on a channel index from N on, and the write of one register. -/

namespace Sys2Proof.Machine

/-! ### The channel index -/

/-- The one fault of a command: its channel index, if it has one, is N or more (rule R44). -/
theorem exec_fault_iff (c : Instr) (s : State) (i : Byte) :
    exec c s = .fault (.indexRange i) ↔ c.channel? = some i ∧ s.params.n ≤ i.toNat := by
  rw [exec_eq, Instr.wellFormed]
  cases c.channel? with
  | none => simp
  | some j =>
    by_cases hj : j.toNat < s.params.n
    · have : i = j → ¬ s.params.n ≤ i.toNat := by rintro rfl; omega
      simpa [hj, eq_comm] using this
    · have : j = i → s.params.n ≤ i.toNat := by rintro rfl; omega
      simpa [hj] using this

/-- A command with channel index `i` faults when `i` is N or more. -/
theorem exec_of_channel_ge {c : Instr} {s : State} {i : Byte} (hc : c.channel? = some i) (hi : s.params.n ≤ i.toNat) :
    exec c s = .fault (.indexRange i) :=
  (exec_fault_iff c s i).2 ⟨hc, hi⟩

/-- A command with a channel index below N completes with its effect. -/
theorem exec_of_channel_lt {c : Instr} {s : State} {i : Byte} (hc : c.channel? = some i) (hi : i.toNat < s.params.n) :
    exec c s = .next (effectOf c s) :=
  exec_of_wellFormed (wellFormed_of_channel hc hi)

/-! ### The write of one register -/

/-- A write leaves every other register to be read as before. -/
theorem readB_writeB_ne {s : State} {i j : Nat} (h : j ≠ i) (v : Byte) : (s.writeB i v).readB j = s.readB j := by
  simp [State.readB, List.getElem?_set_ne h.symm]

/-- Writing the value a register holds changes nothing. -/
theorem writeB_readB (s : State) (i : Nat) : s.writeB i (s.readB i) = s := by
  have hb : s.b.set i (s.readB i) = s.b := by
    by_cases hi : i < s.b.length
    · rw [State.readB, List.getD_eq_getElem _ _ hi, List.set_getElem_self]
    · exact List.set_eq_of_length_le (not_lt.1 hi)
  rw [State.writeB, hb]

/-- A write to a register of a sized store is a channel write. -/
theorem channelWrite_writeB {s : State} {i : Nat} (hs : s.Sized) (hi : i < s.params.n) (x : Byte) :
    s.ChannelWrite (s.writeB i x) i x.toNat :=
  ⟨rfl, by simp, by rw [readB_writeB_same (hs.symm ▸ hi)], fun _ _ hj => readB_writeB_ne hj x⟩

/-- A command on channel `i` whose effect is to write `x` there completes, inside its domain, with register `i` at the
value of `x`. -/
theorem exec_channelWrite {c : Instr} {s : State} {i x : Byte} {v : Nat} (hc : c.channel? = some i)
    (heffect : effectOf c s = s.writeB i.toNat x) (hx : x.toNat = v) (hs : s.Sized) (hi : i.toNat < s.params.n) :
    ∃ t, exec c s = .next t ∧ s.ChannelWrite t i.toNat v :=
  ⟨_, exec_of_channel_lt hc hi, by rw [heffect, ← hx]; exact channelWrite_writeB hs hi x⟩

end Sys2Proof.Machine

open Sys2Proof Sys2Proof.Machine

/-- Settles O21 (it holds): GET's effect is the response; after reset the register it reads is 0. -/
theorem getRespondsWithTheStoredBrightness : Obligations.GetRespondsWithTheStoredBrightness := by
  intro i s
  refine ⟨?_, exec_of_channel_lt rfl, exec_of_channel_ge rfl, fun p pins0 hi => ?_⟩
  · simpa using decode_of_channelWord (c := .get i) (v := 0) rfl rfl
  · rw [exec_of_channel_lt rfl hi, effectOf, readB_atReset]
    rfl

/-- Settles O22 (it holds): SET is a channel write, and writing the value the register holds changes nothing. -/
theorem setWritesOneRegister : Obligations.SetWritesOneRegister := by
  intro i v s
  refine ⟨decode_of_channelWord rfl rfl, fun hs hi => ?_, exec_of_channel_ge rfl⟩
  refine ⟨_, exec_of_channel_lt rfl hi, channelWrite_writeB hs hi v, ?_⟩
  rintro rfl
  exact writeB_readB s i.toNat

/-- Settles O23 (it holds): ADDS is the channel write of `addSat`. -/
theorem addsClampsOneRegister : Obligations.AddsClampsOneRegister := fun _ _ _ =>
  ⟨decode_of_channelWord rfl rfl, exec_channelWrite rfl rfl (addSat_toNat _ _), exec_of_channel_ge rfl⟩

/-- Settles O24 (it holds): SUBS is the channel write of `subSat`. -/
theorem subsClampsOneRegister : Obligations.SubsClampsOneRegister := fun _ _ _ =>
  ⟨decode_of_channelWord rfl rfl, exec_channelWrite rfl rfl (by rw [← subSat_toNat, Int.toNat_natCast]),
    exec_of_channel_ge rfl⟩

/-- Settles O25 (it holds): ADDW is the channel write of `addWrap`. -/
theorem addwWrapsOneRegister : Obligations.AddwWrapsOneRegister := fun _ _ _ =>
  ⟨decode_of_channelWord rfl rfl, exec_channelWrite rfl rfl (addWrap_toNat _ _), exec_of_channel_ge rfl⟩

/-- Settles O26 (it holds): SUBW is the channel write of `subWrap`. -/
theorem subwWrapsOneRegister : Obligations.SubwWrapsOneRegister := fun _ _ _ =>
  ⟨decode_of_channelWord rfl rfl, exec_channelWrite rfl rfl (by rw [← subWrap_toNat, Int.toNat_natCast]),
    exec_of_channel_ge rfl⟩
end

section
/-! SUPPORT. What a brightness command leaves alone (spec/40_brightness_ops.md rule R70), and which steps respond
(spec/30_encoding.md rule R57). -/

namespace Sys2Proof.Machine

/-- The frame of a brightness command (rule R70 (b)): the store and the responses are all its effect can change. -/
theorem effectOf_brightness_frame {c : Instr} (h : c.isBrightness = true) (s : State) :
    effectOf c s = { s with b := (effectOf c s).b, responses := (effectOf c s).responses } := by
  cases c with
  | rebuild => nomatch h
  | onmask t => nomatch h
  | offmask t => nomatch h
  | _ => rfl

/-- Only a command that returns data adds a response. -/
theorem effectOf_responses {c : Instr} (h : c.responds = false) (s : State) :
    (effectOf c s).responses = s.responses := by
  cases c with
  | get i => nomatch h
  | onmask t => nomatch h
  | offmask t => nomatch h
  | _ => rfl

/-- Among the brightness commands only GET returns data. -/
theorem not_responds_of_brightness {c : Instr} (h : c.isBrightness = true) (hget : ∀ i, c ≠ .get i) :
    c.responds = false := by
  cases c with
  | get i => exact absurd rfl (hget i)
  | onmask t => nomatch h
  | offmask t => nomatch h
  | _ => rfl

/-- No command changes an entry of the Schedule. -/
@[simp] theorem readS_effectOf (c : Instr) (s : State) (k : Nat) : (effectOf c s).readS k = s.readS k := by
  simp [State.readS]

/-- A step that responds is agent L executing the waiting word, outside a build, and the word is a command that returns
data: the environment's moves, the frame step and a micro-step keep the responses. -/
theorem step_changes_responses {s t : State} (h : step s = .next t) (hr : t.responses ≠ s.responses) :
    s.busy = false ∧ ∃ w c, s.port = some w ∧ decode w = .ok c ∧ c.responds = true := by
  obtain ⟨rest, _, rfl⟩ | ⟨l, rest, _, rfl⟩ | ⟨w, rest, _, _, rfl⟩ | ⟨rest, _, h⟩ := step_next h
  · exact absurd rfl hr
  · exact absurd rfl hr
  · exact absurd rfl hr
  · obtain ⟨_, rfl⟩ | ⟨_, _, rfl⟩ | ⟨_, hbusy, w, c, hport, hdecode, hexec⟩ | ⟨_, rfl⟩ := agentStep_next h
    · exact absurd rfl hr
    · exact absurd (buildStep_responses _) hr
    · obtain ⟨-, rfl⟩ := exec_next hexec
      have hresponds : c.responds = true := by
        by_contra hc
        exact hr (effectOf_responses (Bool.eq_false_iff.2 hc) _)
      exact ⟨hbusy, w, c, hport, hdecode, hresponds⟩
    · exact absurd rfl hr

/-- While a build runs no step changes the store or responds (rule R70 (a)). -/
theorem step_busy_keeps {s t : State} (hbusy : s.busy = true) (h : step s = .next t) :
    t.b = s.b ∧ t.responses = s.responses := by
  constructor
  · by_contra hb
    obtain ⟨hidle, -⟩ := step_changes_b h hb
    simp [hbusy] at hidle
  · by_contra hr
    obtain ⟨hidle, -⟩ := step_changes_responses h hr
    simp [hbusy] at hidle

end Sys2Proof.Machine

open Sys2Proof Sys2Proof.Machine

/-- Settles O35 (it holds): the frame of a brightness command's effect, the one fault of a command, and that a build
holds every command off. -/
theorem brightnessCommandsHaveNoSideEffects : Obligations.BrightnessCommandsHaveNoSideEffects := by
  refine ⟨fun c s t hc hexec => ?_, fun c s i _ => exec_fault_iff c s i, fun _ _ => step_busy_keeps⟩
  obtain ⟨-, rfl⟩ := exec_next hexec
  refine ⟨effectOf_brightness_frame hc s, readS_effectOf c s, ?_,
    fun hget => effectOf_responses (not_responds_of_brightness hc hget) s⟩
  rintro i rfl
  rfl
end

section
/-! SUPPORT. The target mask `M(t)` (spec/41_schedule_builder.md rules R90, R91): which lines it holds, where it is 0,
and that it shrinks as `t` grows and keeps clear of the reserved bit. -/

namespace Sys2Proof.Machine

section
variable {p : Params} {b : List Byte} {t : Nat}

/-- Line `n` is in `M(t)` exactly when a channel brighter than `t` owns it. -/
theorem targetMask_bit (n : Nat) : (targetMask p b t).getLsbD n = true ↔
    ∃ i, i < p.n ∧ t < (effAt p b i).toNat ∧ (p.pin i).getLsbD n = true := by
  simp [targetMask, orMasks_bit]

/-- Line `n` is in `full_mask` exactly when a channel owns it. -/
theorem fullMask_bit (n : Nat) :
    (fullMask p).getLsbD n = true ↔ ∃ i, i < p.n ∧ (p.pin i).getLsbD n = true := by
  simp [fullMask, orMasks_bit]

/-- With no channel brighter than `t` the or is over no channels. -/
theorem targetMask_eq_zero (h : ∀ i, i < p.n → (effAt p b i).toNat ≤ t) : targetMask p b t = 0 := by
  have hnone : (List.range p.n).filter (fun i => t < (effAt p b i).toNat) = [] := by simpa using h
  rw [targetMask, hnone, List.map_nil, orMasks_nil]

/-- No brightness exceeds 255, so the last mask is dark. -/
theorem targetMask_last (p : Params) (b : List Byte) : targetMask p b 255 = 0 :=
  targetMask_eq_zero fun i _ => Nat.le_of_lt_succ (effAt p b i).isLt

/-- A line on at a phase is on at every earlier one. -/
theorem targetMask_bit_of_le {u n : Nat} (h : t ≤ u) (hbit : (targetMask p b u).getLsbD n = true) :
    (targetMask p b t).getLsbD n = true := by
  rw [targetMask_bit] at hbit ⊢
  obtain ⟨i, hi, heff, hpin⟩ := hbit
  exact ⟨i, hi, h.trans_lt heff, hpin⟩

/-- The masks of a legal parameter set keep clear of the reserved bit, because every pin mask does. -/
theorem targetMask_and_reservedMask (hp : p.legal = true) (b : List Byte) (t : Nat) :
    targetMask p b t &&& p.reservedMask = 0 := by
  apply BitVec.eq_of_getLsbD_eq
  intro n _
  rw [BitVec.getLsbD_and, BitVec.ofNat_eq_ofNat, BitVec.getLsbD_zero, Bool.and_eq_false_imp]
  intro hbit
  obtain ⟨i, hi, -, hpin⟩ := (targetMask_bit n).1 hbit
  have hclear := congrArg (·.getLsbD n) (Params.pin_and_reservedMask_of_legal hp hi)
  simpa [hpin] using hclear

end

/-- A mask whose lines are all in another has no more lines. -/
theorem popcount_le {m m' : Word} (h : ∀ n, m.getLsbD n = true → m'.getLsbD n = true) : popcount m ≤ popcount m' :=
  List.countP_mono_left fun n _ => h n

end Sys2Proof.Machine

open Sys2Proof Sys2Proof.Machine

/-- Settles O39 (it holds): one lemma per clause. -/
theorem targetMaskIsTheOrOfBrighterChannels : Obligations.TargetMaskIsTheOrOfBrighterChannels := fun _ _ _ =>
  ⟨targetMask_bit, targetMask_eq_zero, fullMask_bit⟩
end

section
/-! SUPPORT. The build (spec/41_schedule_builder.md rules R94 to R96, R39): what a micro-step publishes in the Schedule,
that it keeps the machine's invariant, and that 255 of them leave a fresh Schedule. -/

namespace Sys2Proof.Machine

/-! ### One micro-step -/

section
variable {s : State}

/-- A micro-step keeps the canonical form of both arrays. -/
theorem buildStep_wf (hs : s.sched.wf = true) (hh : s.shadow.wf = true) :
    (buildStep s).sched.wf = true ∧ (buildStep s).shadow.wf = true := by
  cases hstrict : s.params.strictSwap with
  | false =>
    rw [buildStep_sched s hstrict, buildStep_shadow s hstrict]
    exact ⟨Memory.write_wf hs s.cur.isLt, hh⟩
  | true =>
    rw [buildStep_sched_strict s hstrict, buildStep_shadow_strict s hstrict]
    refine ⟨?_, Memory.write_wf hh s.cur.isLt⟩
    split
    · exact swapIn_wf hs
    · exact hs

/-- What a micro-step publishes: with `STRICT_SWAP` nothing before the last micro-step (rule R39), otherwise entries
0 to 254 of the array it builds. Entry 255 is never written. -/
theorem readS_buildStep (hs : s.sched.wf = true) (hcur : s.cur.toNat ≤ 254) (k : Nat) :
    (buildStep s).readS k =
      if k < 255 ∧ (s.params.strictSwap = true → s.cur = lastEntry) then (buildStep s).activeArray.read k
      else s.readS k := by
  cases hstrict : s.params.strictSwap with
  | false =>
    by_cases hk : k < 255
    · simp [State.readS, State.activeArray, hstrict, hk]
    · have hne : k ≠ s.cur.toNat := by omega
      simp [State.readS, hk, hne, buildStep_sched s hstrict, Memory.read_write hs]
  | true =>
    by_cases hend : s.cur = lastEntry
    · simp [State.readS, State.activeArray, hstrict, hend, buildStep_sched_strict s hstrict,
        buildStep_shadow_strict s hstrict, swapIn_read hs]
    · simp [State.readS, hend, buildStep_sched_strict s hstrict]

/-- Below its last value the cursor advances by one. -/
theorem buildStep_cur_toNat (hcur : s.cur.toNat ≤ 254) : (buildStep s).cur.toNat = s.cur.toNat + 1 := by
  rw [buildStep_cur]
  bv_omega

/-- A micro-step other than the last leaves the build running. -/
theorem buildStep_busy_of_lt (hbusy : s.busy = true) (hcur : s.cur.toNat < 254) : (buildStep s).busy = true := by
  have hlast : s.cur ≠ lastEntry := fun h => by simp [h, lastEntry] at hcur
  simpa [hlast] using hbusy

/-- In a state of the invariant the array a build writes is clear of the reserved bit. -/
theorem State.Inv.activeClear (h : s.Inv) : s.activeArray.ClearOf s.params.reservedMask := by
  unfold State.activeArray
  split
  · exact h.shadowClear
  · exact h.schedClear

/-- So it is after a micro-step, which writes a target mask there. -/
theorem buildStep_activeClear (h : s.Inv) : (buildStep s).activeArray.ClearOf s.params.reservedMask := by
  intro t
  rw [buildStep_activeArray h.schedWf h.shadowWf]
  split
  · exact targetMask_and_reservedMask h.legal _ _
  · exact h.activeClear t

/-- After a micro-step of a build every entry up to and with the old cursor holds its target mask. -/
theorem buildStep_built (h : s.Inv) (hbusy : s.busy = true) {t : Nat} (ht : t ≤ s.cur.toNat) :
    (buildStep s).activeArray.read t = targetMask s.params s.b t := by
  rw [buildStep_activeArray h.schedWf h.shadowWf]
  split
  · next heq => rw [heq]
  · next hne => exact h.built hbusy t (by omega)

/-- A micro-step of a build keeps the machine's invariant. -/
theorem buildStep_inv (h : s.Inv) (hbusy : s.busy = true) : (buildStep s).Inv := by
  have hcur := h.cursor hbusy
  have hread := readS_buildStep h.schedWf hcur
  have hnext := buildStep_cur_toNat hcur
  obtain ⟨hschedWf, hshadowWf⟩ := buildStep_wf h.schedWf h.shadowWf
  refine ⟨by simpa using h.legal, by simpa using h.sized, hschedWf, hshadowWf, ?lastZero, ?schedClear, ?shadowClear,
    ?cursor, ?built⟩
  case lastZero => simpa [hread] using h.lastZero
  case schedClear =>
    intro t
    rw [buildStep_params, ← State.readS, hread]
    split
    · exact buildStep_activeClear h t
    · exact h.schedClear t
  case shadowClear =>
    rw [buildStep_params]
    cases hstrict : s.params.strictSwap with
    | false => exact buildStep_shadow s hstrict ▸ h.shadowClear
    | true => simpa [State.activeArray, hstrict] using buildStep_activeClear h
  case cursor =>
    intro hstill
    have hne : s.cur.toNat ≠ 254 := fun heq => by
      have : s.cur = lastEntry := BitVec.eq_of_toNat_eq heq
      simp [this] at hstill
    omega
  case built =>
    intro _ t ht
    rw [buildStep_params, buildStep_b]
    exact buildStep_built h hbusy (by omega)

/-- The last micro-step of a build leaves a fresh Schedule: entries 0 to 254 are the built ones, entry 255 is 0. -/
theorem buildStep_fresh (h : s.Inv) (hbusy : s.busy = true) (hcur : s.cur = lastEntry) : (buildStep s).Fresh := by
  intro t ht
  rw [readS_buildStep h.schedWf (h.cursor hbusy), buildStep_params, buildStep_b]
  by_cases hlt : t < 255
  · rw [if_pos ⟨hlt, fun _ => hcur⟩]
    exact buildStep_built h hbusy (by rw [hcur]; exact Nat.le_of_lt_succ hlt)
  · obtain rfl : t = 255 := by omega
    rw [if_neg (by simp), h.lastZero, targetMask_last]

end

/-! ### Many micro-steps -/

/-- The last of `k + 1` micro-steps, split off. -/
theorem buildSteps_succ (k : Nat) (s : State) : buildSteps (k + 1) s = buildStep (buildSteps k s) := by
  induction k generalizing s with
  | zero => rfl
  | succ k ih => exact ih (buildStep s)

@[simp] theorem buildSteps_params (k : Nat) (s : State) : (buildSteps k s).params = s.params := by
  induction k generalizing s with
  | zero => rfl
  | succ k ih => rw [buildSteps, ih, buildStep_params]

@[simp] theorem buildSteps_b (k : Nat) (s : State) : (buildSteps k s).b = s.b := by
  induction k generalizing s with
  | zero => rfl
  | succ k ih => rw [buildSteps, ih, buildStep_b]

/-- As long as the cursor has not passed 254, micro-steps stay in the build and in the invariant. -/
theorem buildSteps_in_build {s : State} {k : Nat} (h : s.Inv) (hbusy : s.busy = true) (hk : s.cur.toNat + k ≤ 254) :
    (buildSteps k s).Inv ∧ (buildSteps k s).busy = true ∧ (buildSteps k s).cur.toNat = s.cur.toNat + k := by
  induction k generalizing s with
  | zero => exact ⟨h, hbusy, rfl⟩
  | succ k ih =>
    have hcur := buildStep_cur_toNat (h.cursor hbusy)
    obtain ⟨hinv, hstill, hend⟩ :=
      ih (buildStep_inv h hbusy) (buildStep_busy_of_lt hbusy (by omega)) (by omega)
    exact ⟨hinv, hstill, by rw [buildSteps, hend]; omega⟩

/-- An accepted REBUILD starts a build at entry 0, in the invariant. -/
theorem rebuild_starts {s t0 : State} (h : s.Inv) (hexec : exec .rebuild s = .next t0) :
    t0.Inv ∧ t0.busy = true ∧ t0.cur = 0 ∧ t0.params = s.params ∧ t0.b = s.b := by
  obtain ⟨-, rfl⟩ := exec_next hexec
  refine ⟨?_, rfl, rfl, rfl, rfl⟩
  exact { h with cursor := fun _ => Nat.zero_le _, built := fun _ t ht => absurd ht (Nat.not_lt_zero t) }

/-- The first 255 states of a build started by REBUILD: in the invariant and busy, the cursor counting the
micro-steps. -/
theorem rebuild_in_build {s t0 : State} {k : Nat} (h : s.Inv) (hexec : exec .rebuild s = .next t0) (hk : k < 255) :
    (buildSteps k t0).Inv ∧ (buildSteps k t0).busy = true ∧ (buildSteps k t0).cur.toNat = k := by
  obtain ⟨hinv, hbusy, hcur, -, -⟩ := rebuild_starts h hexec
  have hzero : t0.cur.toNat = 0 := by rw [hcur]; rfl
  obtain ⟨hinv', hbusy', hcur'⟩ := buildSteps_in_build (k := k) hinv hbusy (by omega)
  exact ⟨hinv', hbusy', by omega⟩

/-- The 255th micro-step after REBUILD ends the build, with every entry the target mask of the store REBUILD found. -/
theorem rebuild_completes {s t0 : State} (h : s.Inv) (hexec : exec .rebuild s = .next t0) :
    (buildSteps 255 t0).busy = false ∧
      ∀ t, t < 256 → (buildSteps 255 t0).readS t = targetMask s.params s.b t := by
  obtain ⟨-, -, -, hparams, hb⟩ := rebuild_starts h hexec
  obtain ⟨hinv, hbusy, hcur⟩ := rebuild_in_build (k := 254) h hexec (by omega)
  have hlast : (buildSteps 254 t0).cur = lastEntry := BitVec.eq_of_toNat_eq hcur
  have hfresh := buildStep_fresh hinv hbusy hlast
  rw [State.Fresh, buildStep_params, buildStep_b, buildSteps_params, buildSteps_b, hparams, hb] at hfresh
  rw [buildSteps_succ]
  exact ⟨by simp [hlast], hfresh⟩

/-! ### Steps of the machine in and after a build -/

/-- A step stops only on the agents' turn: a move of the environment completes. -/
theorem step_completes_or_agentsTurn (s : State) : (∃ t, step s = .next t) ∨ ∃ rest, s.AgentsTurn rest := by
  cases he : s.env with
  | nil => exact .inr ⟨[], .inl ⟨he, rfl⟩⟩
  | cons m rest =>
    cases m with
    | agents => exact .inr ⟨rest, .inr (.inl he)⟩
    | frameRequest => exact .inl ⟨_, by simp only [step, machineStep, he]; rfl⟩
    | debugLine l => exact .inl ⟨_, by simp only [step, machineStep, he]; rfl⟩
    | command w =>
      by_cases hp : s.port = none
      · exact .inl ⟨_, by simp only [step, machineStep, he, hp]; rfl⟩
      · exact .inr ⟨s.env, .inr (.inr ⟨hp, rfl, w, rest, he⟩)⟩

/-- In a build agent L takes a micro-step, which cannot fail. -/
theorem agentLStep_of_busy {s : State} (hbusy : s.busy = true) : agentLStep s = .next (buildStep s) :=
  if_pos hbusy

/-- In a build no step of the machine stops. -/
theorem step_completes_of_busy {s : State} (hbusy : s.busy = true) : ∃ t, step s = .next t := by
  obtain hnext | ⟨rest, hturn⟩ := step_completes_or_agentsTurn s
  · exact hnext
  · rw [step_of_agentsTurn hturn, agentStep]
    split
    · exact ⟨_, rfl⟩
    · exact ⟨_, agentLStep_of_busy hbusy⟩

/-- Only the micro-step at `CUR = 254` ends a build. -/
theorem step_ends_build {s t : State} (h : step s = .next t) (hbusy : s.busy = true) (hend : t.busy = false) :
    s.cur = lastEntry := by
  by_cases hL : s.AgentLSteps
  · obtain ⟨rest, ⟨-, rfl⟩ | ⟨hidle, -⟩⟩ := step_agentL h hL
    · by_contra hcur
      simp [hcur, hbusy] at hend
    · simp [hbusy] at hidle
  · obtain ⟨-, -, -, -, hkept, -⟩ := step_keeps_work h hL
    simp [hkept, hbusy] at hend

/-- Outside a build no step writes the Schedule. -/
theorem step_idle_sched {s t : State} (h : step s = .next t) (hidle : s.busy = false) : t.sched = s.sched := by
  by_cases hL : s.AgentLSteps
  · obtain ⟨rest, ⟨hbusy, -⟩ | ⟨-, w, c, -, -, hexec⟩⟩ := step_agentL h hL
    · simp [hidle] at hbusy
    · obtain ⟨-, rfl⟩ := exec_next hexec
      exact effectOf_sched c _
  · obtain ⟨-, -, hkept, -⟩ := step_keeps_work h hL
    exact hkept

/-- Outside a build a step that leaves the store leaves a fresh Schedule fresh. -/
theorem step_idle_fresh {s t : State} (hfresh : s.Fresh) (hidle : s.busy = false) (h : step s = .next t)
    (hb : t.b = s.b) : t.Fresh := by
  intro k hk
  rw [State.readS, step_idle_sched h hidle, step_params h, hb]
  exact hfresh k hk

end Sys2Proof.Machine

open Sys2Proof Sys2Proof.Machine

/-- Settles O44 (it holds): by induction over the micro-steps the build stays in the invariant with the cursor at their
number, and the micro-step at 254 leaves a fresh Schedule. -/
theorem buildCompletesAfter255MicroSteps : Obligations.BuildCompletesAfter255MicroSteps := by
  refine ⟨fun s t0 hs hexec => ?_, fun s hbusy => ?_, fun _ _ => step_idle_fresh⟩
  · obtain ⟨-, -, -, -, hb⟩ := rebuild_starts hs hexec
    obtain ⟨hdone, hentries⟩ := rebuild_completes hs hexec
    refine ⟨fun k hk => ?_, hdone, by rw [buildSteps_b, hb], hentries⟩
    obtain ⟨-, hbusy, -⟩ := rebuild_in_build hs hexec hk
    exact ⟨hbusy, by rw [agentLStep_of_busy hbusy, buildSteps_succ]⟩
  · obtain ⟨t, ht⟩ := step_completes_of_busy hbusy
    exact ⟨t, ht, step_ends_build ht hbusy⟩

/-- Settles O45 (it holds): the entries of a completed build are target masks, whose lines are known. -/
theorem completedBuildHasTheTestableProperties : Obligations.CompletedBuildHasTheTestableProperties := by
  intro s t0 hs hexec
  obtain ⟨-, hentries⟩ := rebuild_completes hs hexec
  refine ⟨fun t n ht => ?_, ?_, fun t ht => ?_⟩
  · rw [hentries t ht, targetMask_bit]
    exact exists_congr fun i => and_congr_right fun _ => and_comm
  · rw [hentries 255 (by omega), targetMask_last]
  · rw [hentries t (by omega), hentries (t + 1) (by omega)]
    exact popcount_le fun n => targetMask_bit_of_le t.le_succ
end

section
/-! SUPPORT. The mask look-ups ONMASK and OFFMASK (spec/41_schedule_builder.md rules R98, R99). -/

namespace Sys2Proof.Machine

/-- Clear of the reserved bit, an on-mask and its off-mask cover every other line. -/
theorem offMask_or_on {p : Params} {on : Word} (h : on &&& p.reservedMask = 0) :
    offMask p on ||| on = ~~~p.reservedMask := by
  apply BitVec.eq_of_getLsbD_eq
  intro n hn
  have hbit := congrArg (·.getLsbD n) h
  simp [offMask, hn] at hbit ⊢
  grind

/-- With every line off, the off-mask is all but the reserved bit. -/
@[simp] theorem offMask_zero (p : Params) : offMask p 0 = ~~~p.reservedMask := by
  simpa using offMask_or_on (p := p) (on := 0) (by simp)

end Sys2Proof.Machine

open Sys2Proof Sys2Proof.Machine

/-- Settles O49 (it holds): ONMASK's effect is the response; the invariant, a fresh Schedule and the empty Schedule of
reset say what the entry is. -/
theorem onmaskRespondsWithTheEntry : Obligations.OnmaskRespondsWithTheEntry := by
  intro t s
  refine ⟨?_, exec_of_wellFormed rfl, ?_, fun hfresh => hfresh _ t.isLt, fun _ _ => exec_of_wellFormed rfl,
    fun s' hbusy hstep => (step_busy_keeps hbusy hstep).2, _, frameStep_pinEvents s, rfl⟩
  · simpa using decode_of_channelWord (c := .onmask t) (v := 0) rfl rfl
  · rintro hinv rfl
    exact hinv.lastZero

/-- Settles O50 (it holds): OFFMASK's effect is the response, and `offMask` has the laws of rule R99. -/
theorem offmaskRespondsWithTheComplement : Obligations.OffmaskRespondsWithTheComplement := by
  intro t s
  refine ⟨?_, exec_of_wellFormed rfl, rfl, offMask_and_on _ _, offMask_or_on, offMask_and_reserved _ _,
    fun hinv => ⟨hinv.schedClear _, ?_⟩, _, frameStep_pinEvents s, rfl⟩
  · simpa using decode_of_channelWord (c := .offmask t) (v := 0) rfl rfl
  · rintro rfl
    exact hinv.lastZero ▸ offMask_zero _
end

section
/-! SUPPORT. What the frame step reads (spec/42_schedule_driver.md rule R116). -/

namespace Sys2Proof.Machine

/-- Of the parameters the off-mask reads the reserved bit alone. -/
theorem offMask_congr {p q : Params} (h : p.debugBit = q.debugBit) (on : Word) : offMask p on = offMask q on := by
  rw [offMask, offMask, Params.reservedMask, Params.reservedMask, h]

end Sys2Proof.Machine

open Sys2Proof Sys2Proof.Machine

/-- Settles O53 (it holds): the event is the entry at the next phase, which both states share, with its off-mask. -/
theorem frameStepReadsOnlyScheduleAndPhase : Obligations.FrameStepReadsOnlyScheduleAndPhase := by
  intro s s' hsched hph hbit
  have hentry : s.readS (s.ph + 1).toNat = s'.readS (s'.ph + 1).toNat := by
    rw [← hph]
    exact hsched _ (s.ph + 1).isLt
  refine ⟨by simp [hph], _, frameStep_pinEvents s, ?_⟩
  rw [frameStep_pinEvents, hentry, offMask_congr hbit]
end

section
/-! SUPPORT. The decoder and the encoder as inverses, and the decoder and the opcode map (spec/30_encoding.md rules R53,
R55, R56, R59, R62). -/

namespace Sys2Proof

/-! ### What each format accepts (rule R53) -/

section
variable {w : Word} {c : Instr}

theorem formatIV_ok_iff {f : Byte → Byte → Instr} : formatIV w f = .ok c ↔ f (idxField w) (valField w) = c := by
  simp [formatIV]

theorem formatAV_ok_iff {f : Byte → Instr} : formatAV w f = .ok c ↔ idxField w = 0 ∧ f (valField w) = c := by
  rw [formatAV]
  split <;> simp_all

theorem formatX_ok_iff {f : Byte → Instr} : formatX w f = .ok c ↔ valField w = 0 ∧ f (idxField w) = c := by
  rw [formatX]
  split <;> simp_all

theorem formatZ_ok_iff {d : Instr} : formatZ w d = .ok c ↔ idxField w = 0 ∧ valField w = 0 ∧ d = c := by
  rw [formatZ]
  split
  · simp_all
  · split <;> simp_all

end

/-- A word with the five fields of a command word is that word. -/
theorem commandWord_eq_of_fields {w : Word} {op : Nat} {a : Bool} {i v : Byte} (hz : zeroField w = 0)
    (hop : (opField w).toNat = op) (ha : allField w = a) (hi : idxField w = i) (hv : valField w = v) :
    commandWord op a i v = w := by
  refine word_ext_fields ?_ ?_ ?_ ?_ ?_
  · rw [opField_commandWord, ← hop, BitVec.ofNat_toNat, BitVec.setWidth_eq]
  · rw [allField_commandWord, ha]
  · rw [zeroField_commandWord, hz]
  · rw [idxField_commandWord, hi]
  · rw [valField_commandWord, hv]

/-- The encoder gives back the word the decoder read: in each arm the decoder accepts, it has pinned all five fields. -/
theorem encode_of_decode {w : Word} {c : Instr} (h : decode w = .ok c) : encode c = w := by
  unfold decode at h
  split at h
  · cases h
  · next hz =>
    have hz : zeroField w = 0 := not_not.1 hz
    split at h
    -- formats IV, AV, X and Z, then the reserved words
    case h_2 | h_3 | h_5 | h_7 | h_9 =>
      obtain rfl := formatIV_ok_iff.1 h
      exact commandWord_eq_of_fields hz ‹_› ‹_› rfl rfl
    case h_4 | h_6 | h_8 | h_10 =>
      obtain ⟨hi, rfl⟩ := formatAV_ok_iff.1 h
      exact commandWord_eq_of_fields hz ‹_› ‹_› hi rfl
    case h_1 | h_11 | h_12 | h_14 | h_15 =>
      obtain ⟨hv, rfl⟩ := formatX_ok_iff.1 h
      exact commandWord_eq_of_fields hz ‹_› ‹_› rfl hv
    case h_13 =>
      obtain ⟨hi, hv, rfl⟩ := formatZ_ok_iff.1 h
      exact commandWord_eq_of_fields hz ‹_› ‹_› hi hv
    all_goals cases h

/-! ### The opcode map -/

/-- Every row fixes `op`, `A` and a `zero` field of 0, and the bits it fixes of the operand fields are 0. -/
theorem opcodeTable_fields : ∀ r ∈ opcodeTable, opField r.mask = BitVec.allOnes 4 ∧ allField r.mask = true ∧
    zeroField r.mask = BitVec.allOnes 11 ∧ zeroField r.pattern = 0 ∧ idxField r.pattern = 0 ∧
    valField r.pattern = 0 := by
  decide

/-- So a word matches a row when it has the row's `op` and `A`, its `zero` field is 0 and its unused operand fields
are. -/
theorem hits_iff_of_mem {r : OpcodeRow} (hr : r ∈ opcodeTable) (w : Word) : r.hits w = true ↔
    opField w = opField r.pattern ∧ allField w = allField r.pattern ∧ zeroField w = 0 ∧
      idxField w &&& idxField r.mask = 0 ∧ valField w &&& valField r.mask = 0 := by
  obtain ⟨hop, ha, hz, hzp, hip, hvp⟩ := opcodeTable_fields r hr
  rw [r.hits_iff_fields, hop, ha, hz, hzp, hip, hvp, BitVec.and_allOnes, BitVec.and_allOnes, Bool.and_true]

/-- The word of a command matches a row with the command's mnemonic. -/
theorem exists_row_of_encode (c : Instr) :
    ∃ r ∈ opcodeTable, r.mnemonic = mnemonicOf c ∧ r.hits (encode c) = true := by
  cases c <;> simp only [opcodeTable, mnemonicOf, encode, OpcodeRow.hits_iff_fields,
    opField_commandWord, allField_commandWord, zeroField_commandWord, idxField_commandWord, valField_commandWord] <;>
    simp [opField, allField, zeroField, idxField, valField]

/-- A word that matches a row decodes to a command with the row's mnemonic. -/
theorem decode_of_hits {r : OpcodeRow} {w : Word} (hr : r ∈ opcodeTable) (h : r.hits w = true) :
    ∃ c, decode w = .ok c ∧ mnemonicOf c = r.mnemonic := by
  obtain ⟨hop, ha, hz, hi, hv⟩ := (hits_iff_of_mem hr w).1 h
  have hall (x : Byte) : x &&& 255#8 = x := BitVec.and_allOnes
  fin_cases hr <;>
    simp_all [decode, formatX, formatIV, formatAV, formatZ, mnemonicOf, opField, allField, idxField, valField]

/-- No two rows have one mnemonic. -/
theorem opcodeTable_mnemonic_inj : ∀ r ∈ opcodeTable, ∀ r' ∈ opcodeTable, r.mnemonic = r'.mnemonic → r = r' := by
  decide

end Sys2Proof

open Sys2Proof Sys2Proof.Machine

/-- Settles O7 (it holds). -/
theorem everyCommandDecodesBack : Obligations.EveryCommandDecodesBack := decode_encode

/-- Settles O8 (it holds): each arm of the decoder pins the five fields of the word it accepts. -/
theorem everyLegalWordEncodesBack : Obligations.EveryLegalWordEncodesBack := fun _ _ => encode_of_decode

/-- Settles O9 (it holds): the word of a command matches the command's row, a matching word decodes to a command of the
row, and a mnemonic names one row. -/
theorem decoderAcceptsExactlyTheOpcodeMap : Obligations.DecoderAcceptsExactlyTheOpcodeMap := by
  intro w
  refine ⟨⟨fun ⟨c, hc⟩ => ?_, fun ⟨r, hr, hhit⟩ => ?_⟩, fun c hc r hr => ⟨fun hhit => ?_, fun hname => ?_⟩⟩
  · obtain ⟨r, hr, -, hhit⟩ := exists_row_of_encode c
    exact ⟨r, hr, encode_of_decode hc ▸ hhit⟩
  · obtain ⟨c, hc, -⟩ := decode_of_hits hr hhit
    exact ⟨c, hc⟩
  · obtain ⟨c', hc', hname⟩ := decode_of_hits hr hhit
    obtain rfl : c = c' := Except.ok.inj (hc.symm.trans hc')
    exact hname.symm
  · obtain ⟨r', hr', hname', hhit⟩ := exists_row_of_encode c
    rw [opcodeTable_mnemonic_inj r hr r' hr' (hname.trans hname'.symm)]
    exact encode_of_decode hc ▸ hhit
end

section
/-! SUPPORT. The document's threshold algorithm (spec/41_schedule_builder.md rules R92, R93) and the order of the target
masks (rule R100). -/

namespace Sys2Proof.Machine

section
variable {p : Params} {b : List Byte} {t u : Nat}

/-- Phases that no effective brightness separates have one target mask. -/
theorem targetMask_congr (h : ∀ i, i < p.n → (t < (effAt p b i).toNat ↔ u < (effAt p b i).toNat)) :
    targetMask p b t = targetMask p b u := by
  have hsame : (List.range p.n).filter (fun i => t < (effAt p b i).toNat) =
      (List.range p.n).filter (fun i => u < (effAt p b i).toNat) :=
    List.filter_congr fun i hi => decide_eq_decide.2 (h i (List.mem_range.1 hi))
  rw [targetMask, hsame, targetMask]

/-! ### The thresholds -/

theorem mem_thresholds {x : Nat} : x ∈ thresholds p b ↔
    x < 256 ∧ (x = 0 ∨ x = 255 ∨ ∃ i, i < p.n ∧ (effAt p b i).toNat = x) := by
  simp [thresholds, or_assoc]

theorem thresholds_pairwise (p : Params) (b : List Byte) : (thresholds p b).Pairwise (· < ·) :=
  List.pairwise_lt_range.filter _

/-- The first threshold is the sentinel 0. -/
theorem exists_thresholds_eq_zero_cons (p : Params) (b : List Byte) : ∃ ts, thresholds p b = 0 :: ts := by
  rw [thresholds, List.range_succ_eq_map, List.filter_cons_of_pos (by simp)]
  exact ⟨_, rfl⟩

/-! ### The writes -/

/-- From a threshold `lo` on, the algorithm writes the target masks of the phases up to the last threshold in order,
if the thresholds ascend and hold every effective brightness above `lo`. -/
theorem rangeWrites_eq {lo last : Nat} {ts : List Nat} (hsorted : (lo :: ts).Pairwise (· < ·))
    (hcover : ∀ i, i < p.n → lo < (effAt p b i).toNat → (effAt p b i).toNat ∈ ts)
    (hlast : last ∈ lo :: ts) (hmax : ∀ x ∈ lo :: ts, x ≤ last) :
    rangeWrites p b (lo :: ts) = (List.range' lo (last - lo)).map fun t => (t, targetMask p b t) := by
  induction ts generalizing lo with
  | nil =>
    obtain rfl : last = lo := by simpa using hlast
    simp [rangeWrites]
  | cons hi ts ih =>
    obtain ⟨hlo, hrest⟩ := List.pairwise_cons.1 hsorted
    obtain ⟨hhi, -⟩ := List.pairwise_cons.1 hrest
    have hlohi : lo < hi := hlo hi (by simp)
    have hhilast : hi ≤ last := hmax hi (by simp)
    have hmask : ∀ t ∈ List.range' lo (hi - lo), targetMask p b lo = targetMask p b t := by
      intro t ht
      rw [List.mem_range'_1] at ht
      refine targetMask_congr fun i hin => ⟨fun hlt => ?_, fun hlt => by omega⟩
      obtain heq | hmem := List.mem_cons.1 (hcover i hin hlt)
      · omega
      · have := hhi _ hmem
        omega
    have htail : rangeWrites p b (hi :: ts) = (List.range' hi (last - hi)).map fun t => (t, targetMask p b t) := by
      refine ih hrest (fun i hin hlt => ?_) ?_ fun x hx => hmax x (by simp [hx])
      · exact List.mem_of_ne_of_mem hlt.ne' (hcover i hin (hlohi.trans hlt))
      · exact List.mem_of_ne_of_mem (by omega) hlast
    have hsplit : List.range' lo (last - lo) = List.range' lo (hi - lo) ++ List.range' hi (last - hi) := by
      have := List.range'_append_1 (s := lo) (m := hi - lo) (n := last - hi)
      rw [show lo + (hi - lo) = hi by omega] at this
      rw [this, show hi - lo + (last - hi) = last - lo by omega]
    rw [rangeWrites, htail, hsplit, List.map_append]
    congr 1
    exact List.map_congr_left fun t ht => by rw [hmask t ht]

/-! ### The order of the masks -/

/-- A mask whose lines are all in another leaves nothing outside it. -/
theorem and_not_eq_zero {m m' : Word} (h : ∀ n, m.getLsbD n = true → m'.getLsbD n = true) : m &&& ~~~m' = 0 := by
  apply BitVec.eq_of_getLsbD_eq
  intro n hn
  have := h n
  cases hm : m.getLsbD n <;> simp_all

/-- Every line of a target mask belongs to a channel. -/
theorem fullMask_bit_of_targetMask {n : Nat} (h : (targetMask p b t).getLsbD n = true) :
    (fullMask p).getLsbD n = true := by
  obtain ⟨i, hi, -, hpin⟩ := (targetMask_bit n).1 h
  exact (fullMask_bit n).2 ⟨i, hi, hpin⟩

end

end Sys2Proof.Machine

open Sys2Proof Sys2Proof.Machine

/-- Settles O41 (it holds): by induction over the thresholds; between two adjacent ones no effective brightness lies, so
the one mask of the pair is the target mask of each phase of the range. -/
theorem documentAlgorithmWritesTheTargetMasks : Obligations.DocumentAlgorithmWritesTheTargetMasks := by
  intro p b
  obtain ⟨ts, hts⟩ := exists_thresholds_eq_zero_cons p b
  have hmem {x : Nat} : x ∈ 0 :: ts ↔ _ := hts ▸ mem_thresholds
  rw [documentWrites, hts, List.range_eq_range']
  refine rangeWrites_eq (last := 255) (hts ▸ thresholds_pairwise p b) (fun i hi hlt => ?_) ?_ fun x hx => ?_
  · exact List.mem_of_ne_of_mem hlt.ne' (hmem.2 ⟨(effAt p b i).isLt, .inr (.inr ⟨i, hi, rfl⟩)⟩)
  · exact hmem.2 ⟨by omega, .inr (.inl rfl)⟩
  · exact Nat.le_of_lt_succ (hmem.1 hx).1

/-- Settles O40 (it holds): a line on at phase t + 1 is on at phase t. -/
theorem targetMasksShrinkAndAvoidTheReservedBit : Obligations.TargetMasksShrinkAndAvoidTheReservedBit := fun p b =>
  ⟨targetMask_last p b,
    fun t => ⟨and_not_eq_zero fun _ => targetMask_bit_of_le t.le_succ, popcount_le fun _ => targetMask_bit_of_le t.le_succ⟩,
    fun hp => targetMask_and_reservedMask hp b, fun _ => and_not_eq_zero fun _ => fullMask_bit_of_targetMask⟩
end

section
/-! SUPPORT. One step of the machine, case by case of the environment's next move and of what the agents have to do
(spec/42_schedule_driver.md rule R114, spec/30_encoding.md rules R50, R51, R56). -/

namespace Sys2Proof.Machine

section
variable {s : State} {rest : List EnvMove}

/-! ### The agents' turn -/

/-- A pending frame request goes first (rule R114). -/
theorem step_of_fp (h : s.AgentsTurn rest) (hfp : s.fp = true) : step s = .next (frameStep { s with env := rest }) :=
  (step_of_agentsTurn h).trans (if_pos hfp)

/-- With no frame request pending the step is agent L's. -/
theorem step_of_not_fp (h : s.AgentsTurn rest) (hfp : s.fp = false) : step s = agentLStep { s with env := rest } :=
  (step_of_agentsTurn h).trans (if_neg (by simp [hfp]))

/-- In a build agent L takes a micro-step (rule R51). -/
theorem step_of_busy (h : s.AgentsTurn rest) (hfp : s.fp = false) (hbusy : s.busy = true) :
    step s = .next (buildStep { s with env := rest }) :=
  (step_of_not_fp h hfp).trans (agentLStep_of_busy hbusy)

/-- Outside a build agent L takes the waiting word (rule R50). -/
theorem step_of_port (h : s.AgentsTurn rest) (hfp : s.fp = false) (hbusy : s.busy = false) {w : Word}
    (hport : s.port = some w) : step s = acceptCommand { s with env := rest } w := by
  rw [step_of_not_fp h hfp, agentLStep, if_neg (by simp [hbusy])]
  simp only [hport]

/-- A quiescent state takes the idle step. -/
theorem step_of_quiescent (h : s.AgentsTurn rest) (hq : s.Quiescent) : step s = .next { s with env := rest } := by
  obtain ⟨hbusy, hport, hfp⟩ := hq
  rw [step_of_not_fp h hfp, agentLStep, if_neg (by simp [hbusy])]
  simp only [hport]

/-- A word that decodes to a command is that command. -/
theorem acceptCommand_of_ok {w : Word} {c : Instr} (hc : decode w = .ok c) :
    acceptCommand s w = exec c { s with port := none } := by
  rw [acceptCommand, hc]

/-- A word that decodes to no command is refused. -/
theorem acceptCommand_of_not_ok {w : Word} (hw : ¬ ∃ c, decode w = .ok c) :
    acceptCommand s w = .refused (.reservedWord w) := by
  rw [acceptCommand]
  split
  · next c hc => exact absurd ⟨c, hc⟩ hw
  · rfl

/-! ### Moves of the environment -/

theorem step_of_frameRequest (h : s.env = .frameRequest :: rest) :
    step s = .next (raiseFrameRequest { s with env := rest }) := by
  simp only [step, machineStep, h]

theorem step_of_debugLine {level : Bool} (h : s.env = .debugLine level :: rest) :
    step s = .next (driveDebugLine { s with env := rest } level) := by
  simp only [step, machineStep, h]

theorem step_of_command {w : Word} (h : s.env = .command w :: rest) (hport : s.port = none) :
    step s = .next (presentCommand { s with env := rest } w) := by
  simp only [step, machineStep, h, hport]

/-! ### Runs -/

theorem run_zero (s : State) : Sys2Proof.core.run 0 s = .next s := rfl

/-- A run goes on from the state its first step answers. -/
theorem run_succ {t : State} (h : step s = .next t) (k : Nat) :
    Sys2Proof.core.run (k + 1) s = Sys2Proof.core.run k t := by
  have hstep : Sys2Proof.core.step s = .next t := h
  simp only [Host.Core.run, hstep]

/-- The moves left after the agents' turn are the last of those before it. -/
theorem State.AgentsTurn.suffix (h : s.AgentsTurn rest) : rest <:+ s.env := by
  obtain ⟨-, rfl⟩ | henv | ⟨-, rfl, -⟩ := h
  · exact List.nil_suffix
  · exact henv ▸ List.suffix_cons _ _
  · exact List.suffix_rfl

end

/-! ### The reserved line -/

/-- The other user of the reserved line leaves the other 31 lines. -/
theorem driveDebugLine_pins_and (s : State) (level : Bool) :
    (driveDebugLine s level).pins &&& ~~~s.params.reservedMask = s.pins &&& ~~~s.params.reservedMask := by
  apply BitVec.eq_of_getLsbD_eq
  intro n hn
  simp only [driveDebugLine, BitVec.getLsbD_and, BitVec.getLsbD_or, BitVec.getLsbD_not, hn]
  cases level <;> grind

theorem reservedMask_getLsbD {p : Params} (hp : p.debugBit < 32) : p.reservedMask.getLsbD p.debugBit = true := by
  simp [Params.reservedMask, hp]

/-- It drives the reserved line to its level. -/
theorem driveDebugLine_pins_debugBit {s : State} (hs : s.params.debugBit < 32) (level : Bool) :
    (driveDebugLine s level).pins.getLsbD s.params.debugBit = level := by
  cases level <;> simp [driveDebugLine, reservedMask_getLsbD hs]

end Sys2Proof.Machine

open Sys2Proof Sys2Proof.Machine

/-- Settles O13 (it holds): by O9 the word decodes to no command. -/
theorem reservedWordsAreRefused : Obligations.ReservedWordsAreRefused := by
  intro s rest w hturn hfp hbusy hport hno
  rw [step_of_port hturn hfp hbusy hport, acceptCommand_of_not_ok]
  obtain ⟨hok, -⟩ := decoderAcceptsExactlyTheOpcodeMap w
  rw [hok]
  rintro ⟨r, hr, hhit⟩
  simp [hno r hr] at hhit

/-- Settles O10 (it holds), by evaluation of the decoder on each word. -/
theorem sampleWordsDecodeAsTheSpecSays : Obligations.SampleWordsDecodeAsTheSpecSays := by
  exact ⟨rfl, rfl, rfl, rfl, rfl, rfl, rfl, rfl, rfl, rfl⟩

/-- Settles O11 (it holds). -/
theorem stepRunsTheDecodedCommand : Obligations.StepRunsTheDecodedCommand := by
  intro s rest w c hturn hfp hbusy hport hc
  rw [step_of_port hturn hfp hbusy hport, acceptCommand_of_ok hc]

/-- Settles O12 (it holds): the staged state is one in which the agents take the waiting word. -/
theorem stagedWordRunsNext : Obligations.StagedWordRunsNext := by
  intro s w c hc
  have hw : BitVec.ofNat 32 (w.toNat % 2 ^ 32) = w := by
    rw [Nat.mod_eq_of_lt w.isLt, BitVec.ofNat_toNat, BitVec.setWidth_eq]
  rw [State.withFetchWord, hw]
  exact stepRunsTheDecodedCommand (stageCommand s w) s.env w c (.inr (.inl rfl)) rfl rfl rfl hc

/-- Settles O14 (it holds). -/
theorem pendingFrameRequestGoesFirst : Obligations.PendingFrameRequestGoesFirst := fun _ _ => step_of_fp

/-- Settles O15 (it holds): a micro-step leaves the port, the store and the responses. -/
theorem buildHoldsTheCommandPortOff : Obligations.BuildHoldsTheCommandPortOff := fun _ _ hturn hfp hbusy =>
  ⟨_, step_of_busy hturn hfp hbusy, rfl, buildStep_port _, buildStep_b _, buildStep_responses _⟩

/-- Settles O16 (it holds). -/
theorem quiescentStateStandsStill : Obligations.QuiescentStateStandsStill := fun _ _ => step_of_quiescent

/-- Settles O17 (it holds): the second of two requests sets a bit that is set. -/
theorem environmentMovesLand : Obligations.EnvironmentMovesLand := by
  refine fun s rest => ⟨step_of_frameRequest, fun h => ?_, fun w => step_of_command⟩
  rw [run_succ (step_of_frameRequest h), run_succ (step_of_frameRequest rfl), run_zero]
  rfl

/-- Settles O18 (it holds). -/
theorem debugLineMovesOnlyTheReservedBit : Obligations.DebugLineMovesOnlyTheReservedBit := fun _ _ level hbit henv =>
  ⟨_, step_of_debugLine henv, rfl, driveDebugLine_pins_and _ level, driveDebugLine_pins_debugBit hbit level⟩
end

section
/-! SUPPORT. What a command owns (spec/10_state.md rules R21, R26, spec/20_memory.md rule R44): its frame, that it does
not see the frame level, and its domain. -/

namespace Sys2Proof.Machine

section
variable {c : Instr} {s : State}

/-- The frame of a command: the store, the responses and the build's start are all its effect can change. -/
theorem effectOf_frame (c : Instr) (s : State) : effectOf c s =
    { s with b := (effectOf c s).b, responses := (effectOf c s).responses, busy := (effectOf c s).busy,
             cur := (effectOf c s).cur } := by
  cases c <;> rfl

/-- Only REBUILD touches `BUSY` and `CUR`. -/
theorem effectOf_busy_cur (hc : c ≠ .rebuild) : (effectOf c s).busy = s.busy ∧ (effectOf c s).cur = s.cur := by
  cases c with
  | rebuild => exact absurd rfl hc
  | _ => exact ⟨rfl, rfl⟩

/-- A command that returns data adds one response. -/
theorem effectOf_responds (hc : c.responds = true) (s : State) :
    ∃ v, (effectOf c s).responses = s.responses ++ [v] := by
  cases c with
  | get i => exact ⟨_, rfl⟩
  | onmask t => exact ⟨_, rfl⟩
  | offmask t => exact ⟨_, rfl⟩
  | _ => nomatch hc

/-- A command's effect commutes with any change of the frame level: it neither reads nor writes it. -/
theorem effectOf_withFrameLevel (c : Instr) (s : State) (ph : Byte) (fp : Bool) (pins : Word) (evs : List PinEvent) :
    effectOf c { s with ph := ph, fp := fp, pins := pins, pinEvents := evs } =
      { effectOf c s with ph := ph, fp := fp, pins := pins, pinEvents := evs } := by
  cases c <;> rfl

/-- A command outside its domain has a channel index of N or more. -/
theorem channel_of_not_wellFormed {n : Nat} (h : c.wellFormed n = false) :
    ∃ i, c.channel? = some i ∧ n ≤ i.toNat := by
  rw [Instr.wellFormed] at h
  split at h
  · next i hi => exact ⟨i, hi, by simpa using h⟩
  · cases h

end

end Sys2Proof.Machine

open Sys2Proof Sys2Proof.Machine

/-- Settles O36 (it holds): the frame of a command's effect, part by part. -/
theorem commandsWriteOnlyWhatTheyOwn : Obligations.CommandsWriteOnlyWhatTheyOwn := by
  intro c s t hexec
  obtain ⟨-, rfl⟩ := exec_next hexec
  refine ⟨effectOf_frame c s, readS_effectOf c s, effectOf_busy_cur, effectOf_b c s, ?_⟩
  split
  · next hc => exact effectOf_responds hc s
  · next hc => exact effectOf_responses (Bool.eq_false_iff.2 hc) s

/-- Settles O37 (it holds). -/
theorem commandsCompleteExactlyInTheirDomain : Obligations.CommandsCompleteExactlyInTheirDomain := by
  refine fun c s => ⟨fun h => ⟨_, exec_of_wellFormed h⟩, fun h => ?_⟩
  obtain ⟨i, hc, hi⟩ := channel_of_not_wellFormed h
  exact ⟨i, hc, exec_of_channel_ge hc hi⟩

/-- Settles O38 (it holds): the domain does not depend on the frame level, and the effect commutes with it. -/
theorem frameLevelIsInvisibleToCommands : Obligations.FrameLevelIsInvisibleToCommands := by
  intro c s t ph fp pins evs hexec
  obtain ⟨hdom, rfl⟩ := exec_next hexec
  rw [← effectOf_withFrameLevel]
  exact exec_of_wellFormed hdom

/-- Settles O42 (it holds), by evaluation of the decoder and of REBUILD's effect. -/
theorem rebuildStartsABuild : Obligations.RebuildStartsABuild := ⟨rfl, fun _ => exec_of_wellFormed rfl⟩
end

section
/-! SUPPORT. The machine's invariant, kept by every step (spec/10_state.md sections 2, 4, 7), and a build in progress
(spec/20_memory.md rules R37, R39). -/

namespace Sys2Proof.Machine

/-! ### What agent L works on -/

/-- The two states agree on the parameters, the store, both arrays and the build's progress: what the invariant, a fresh
Schedule and a build in progress are about. -/
structure State.SameBuild (s t : State) : Prop where
  params : t.params = s.params
  b : t.b = s.b
  sched : t.sched = s.sched
  shadow : t.shadow = s.shadow
  busy : t.busy = s.busy
  cur : t.cur = s.cur

/-- And a word waiting at the port of the first waits at the port of the second. -/
structure State.SameWork (s t : State) : Prop extends s.SameBuild t where
  port : ∀ w, s.port = some w → t.port = some w

section
variable {s t : State}

theorem State.SameWork.refl (s : State) : s.SameWork s :=
  ⟨⟨rfl, rfl, rfl, rfl, rfl, rfl⟩, fun _ => id⟩

theorem State.SameWork.trans {u : State} (h : s.SameWork t) (h' : t.SameWork u) : s.SameWork u :=
  ⟨⟨h'.params.trans h.params, h'.b.trans h.b, h'.sched.trans h.sched, h'.shadow.trans h.shadow,
    h'.busy.trans h.busy, h'.cur.trans h.cur⟩, fun w hw => h'.port w (h.port w hw)⟩

/-- A step that is not agent L's keeps what agent L works on. -/
theorem step_sameWork (h : step s = .next t) (hL : ¬ s.AgentLSteps) : s.SameWork t := by
  obtain ⟨hparams, hb, hsched, hshadow, hbusy, hcur, hport⟩ := step_keeps_work h hL
  exact ⟨⟨hparams, hb, hsched, hshadow, hbusy, hcur⟩, hport⟩

/-- The environment's list is nothing agent L works on. -/
theorem sameWork_withEnv (s : State) (env : List EnvMove) : s.SameWork { s with env := env } :=
  ⟨⟨rfl, rfl, rfl, rfl, rfl, rfl⟩, fun _ => id⟩

/-- The invariant speaks of nothing else. -/
theorem State.Inv.congr (h : s.Inv) (hst : s.SameBuild t) : t.Inv := by
  obtain ⟨hparams, hb, hsched, hshadow, hbusy, hcur⟩ := hst
  obtain ⟨hlegal, hsized, hschedWf, hshadowWf, hlast, hschedClear, hshadowClear, hcursor, hbuilt⟩ := h
  constructor <;> simp_all [State.readS, State.activeArray]

/-- Nor does a build in progress. -/
theorem State.MidBuild.congr {old : Memory} (h : s.MidBuild old) (hst : s.SameBuild t) : t.MidBuild old := by
  intro k hk
  rw [State.readS, hst.sched, hst.cur, hst.params, hst.b]
  exact h k hk

/-! ### The invariant -/

/-- A command taken outside a build keeps the invariant: REBUILD starts a build at entry 0, and every other command
leaves the arrays and the build alone. -/
theorem effectOf_inv (h : s.Inv) (hidle : s.busy = false) (c : Instr) : (effectOf c s).Inv := by
  by_cases hc : c = .rebuild
  · subst hc
    obtain ⟨hinv, -⟩ := rebuild_starts h (exec_of_wellFormed rfl)
    exact hinv
  · obtain ⟨hbusy, -⟩ := effectOf_busy_cur (s := s) hc
    refine ⟨?_, ?_, ?_, ?_, ?_, ?_, ?_, ?_, ?_⟩
    · simpa using h.legal
    · simpa using effectOf_b_length c s h.sized
    · simpa using h.schedWf
    · simpa using h.shadowWf
    · simpa using h.lastZero
    · simpa using h.schedClear
    · simpa using h.shadowClear
    · simp [hbusy, hidle]
    · simp [hbusy, hidle]

/-- Every step keeps the invariant: agent L's steps do, and every other step leaves what agent L works on. -/
theorem step_inv (h : s.Inv) (hstep : step s = .next t) : t.Inv := by
  by_cases hL : s.AgentLSteps
  · obtain ⟨rest, ⟨hbusy, rfl⟩ | ⟨hidle, w, c, -, -, hexec⟩⟩ := step_agentL hstep hL
    · exact buildStep_inv (h.congr (sameWork_withEnv s rest).toSameBuild) hbusy
    · obtain ⟨-, rfl⟩ := exec_next hexec
      have hinv : State.Inv { s with env := rest, port := none } := h.congr ⟨rfl, rfl, rfl, rfl, rfl, rfl⟩
      exact effectOf_inv hinv hidle c
  · exact h.congr (step_sameWork hstep hL).toSameBuild

/-! ### What moves the frame level -/

/-- A step is the frame step with the request pending, or it leaves `PH`, the events and the 31 non-reserved lines. -/
theorem step_frame_or_keeps (h : step s = .next t) :
    (s.fp = true ∧ ∃ rest, t = frameStep { s with env := rest }) ∨
      (t.ph = s.ph ∧ t.pinEvents = s.pinEvents ∧
        t.pins &&& ~~~s.params.reservedMask = s.pins &&& ~~~s.params.reservedMask) := by
  obtain ⟨rest, -, rfl⟩ | ⟨l, rest, -, rfl⟩ | ⟨w, rest, -, -, rfl⟩ | ⟨rest, -, h⟩ := step_next h
  · exact .inr ⟨rfl, rfl, rfl⟩
  · exact .inr ⟨rfl, rfl, driveDebugLine_pins_and { s with env := rest } l⟩
  · exact .inr ⟨rfl, rfl, rfl⟩
  · obtain ⟨hfp, rfl⟩ | ⟨-, -, rfl⟩ | ⟨-, -, w, c, -, -, hexec⟩ | ⟨-, rfl⟩ := agentStep_next h
    · exact .inl ⟨hfp, rest, rfl⟩
    · exact .inr (by simp)
    · obtain ⟨-, rfl⟩ := exec_next hexec
      exact .inr (by simp)
    · exact .inr ⟨rfl, rfl, rfl⟩

/-! ### Micro-steps -/

/-- The frame of a micro-step without `STRICT_SWAP`. -/
theorem buildStep_frame (hstrict : s.params.strictSwap = false) : buildStep s =
    { s with sched := (buildStep s).sched, busy := (buildStep s).busy, cur := (buildStep s).cur } := by
  simp [buildStep, writeEntry, hstrict]

/-- Without `STRICT_SWAP` a micro-step writes entry `CUR` of the Schedule and no other. -/
theorem readS_buildStep_of_not_strict (hs : s.sched.wf = true) (hstrict : s.params.strictSwap = false) (k : Nat) :
    (buildStep s).readS k = if k = s.cur.toNat then targetMask s.params s.b k else s.readS k := by
  rw [State.readS, buildStep_sched s hstrict, Memory.read_write hs]
  split
  · next hk => rw [hk]
  · rfl

/-- A micro-step ends the build exactly at entry 254. -/
theorem buildStep_busy_iff (hbusy : s.busy = true) : (buildStep s).busy = false ↔ s.cur.toNat = 254 := by
  have hlast : s.cur = lastEntry ↔ s.cur.toNat = 254 := BitVec.toNat_inj.symm
  simp [hbusy, hlast]

/-- A micro-step moves the border between new and old entries past the entry it writes. -/
theorem buildStep_midBuild {old : Memory} (h : s.Inv) (hstrict : s.params.strictSwap = false) (hbusy : s.busy = true)
    (hmid : s.MidBuild old) : (buildStep s).MidBuild old := by
  intro k hk
  rw [readS_buildStep_of_not_strict h.schedWf hstrict, buildStep_cur_toNat (h.cursor hbusy), buildStep_params,
    buildStep_b, hmid k hk]
  grind

/-- A step of the machine during a build keeps the mix of new and old entries. -/
theorem step_midBuild {old : Memory} (h : s.Inv) (hstrict : s.params.strictSwap = false) (hbusy : s.busy = true)
    (hmid : s.MidBuild old) (hstep : step s = .next t) : t.MidBuild old := by
  by_cases hL : s.AgentLSteps
  · obtain ⟨rest, ⟨-, rfl⟩ | ⟨hidle, -⟩⟩ := step_agentL hstep hL
    · have hsame := (sameWork_withEnv s rest).toSameBuild
      exact buildStep_midBuild (h.congr hsame) hstrict hbusy (hmid.congr hsame)
    · simp [hbusy] at hidle
  · exact hmid.congr (step_sameWork hstep hL).toSameBuild

end

end Sys2Proof.Machine

open Sys2Proof Sys2Proof.Machine

/-- Settles O58 (it holds). -/
theorem everyStepKeepsTheMachineInvariant : Obligations.EveryStepKeepsTheMachineInvariant := fun _ _ => step_inv

/-- Settles O54 (it holds): every step but the frame step leaves `PH` and the events. -/
theorem onlyTheFrameStepMovesThePhase : Obligations.OnlyTheFrameStepMovesThePhase := by
  intro s t hstep hmoved
  obtain hframe | ⟨hph, hevents, -⟩ := step_frame_or_keeps hstep
  · exact hframe
  · exact absurd hmoved (by simp [hph, hevents])

/-- Settles O43 (it holds): the micro-step's frame, its write, its cursor and its end, one lemma each. -/
theorem microStepWritesOneEntry : Obligations.MicroStepWritesOneEntry := fun _ hs hstrict hbusy =>
  ⟨_, agentLStep_of_busy hbusy, buildStep_frame hstrict, readS_buildStep_of_not_strict hs.schedWf hstrict,
    buildStep_cur_toNat (hs.cursor hbusy), buildStep_busy_iff hbusy⟩

/-- Settles O46 (it holds): REBUILD leaves every entry old; a step keeps the mix of new and old entries; and an event in
a build is a frame step's, which reads the mix at its phase. -/
theorem buildInProgressMixesOldAndNewEntries : Obligations.BuildInProgressMixesOldAndNewEntries := by
  refine ⟨fun s t hexec => ?_, fun old s t hs hstrict hbusy hmid hstep => ?_⟩
  · obtain ⟨-, rfl⟩ := exec_next hexec
    exact fun k _ => (if_neg (Nat.not_lt_zero k)).symm
  · obtain ⟨hb, -⟩ := step_busy_keeps hbusy hstep
    refine ⟨step_midBuild hs hstrict hbusy hmid hstep, hb, ?_⟩
    obtain ⟨-, rest, rfl⟩ | ⟨-, hevents, -⟩ := step_frame_or_keeps hstep
    · exact .inr ⟨_, frameStep_pinEvents _, hmid _ (s.ph + 1).isLt⟩
    · exact .inl hevents

/-- Settles O48 (it holds): before the last micro-step nothing is published, and the last one leaves a fresh Schedule. -/
theorem strictSwapPublishesTheBuildAtOnce : Obligations.StrictSwapPublishesTheBuildAtOnce := by
  refine fun s hs hstrict hbusy => ⟨fun hcur k => ?_, fun hcur k hk => ?_⟩
  · rw [readS_buildStep hs.schedWf (hs.cursor hbusy), if_neg]
    exact fun ⟨_, hlast⟩ => hcur (hlast hstrict)
  · simpa using buildStep_fresh hs hbusy hcur k hk
end

section
/-! SUPPORT. What comes from outside (spec/60_exceptions.md rules R120, R128, R133, R135): the frame requests and the
command words of a run are those the environment had settled. -/

namespace Sys2Proof.Machine

section
variable {s t : State}

/-- A step adds no move to those to come; a frame request pending after it was pending or to come, and so was a word at
the port. -/
theorem step_inputs (h : step s = .next t) : t.env ⊆ s.env ∧ (t.fp = true → s.fp = true ∨ .frameRequest ∈ s.env) ∧
    ∀ w, t.port = some w → s.port = some w ∨ .command w ∈ s.env := by
  obtain ⟨rest, henv, rfl⟩ | ⟨l, rest, henv, rfl⟩ | ⟨w, rest, henv, -, rfl⟩ | ⟨rest, hturn, h⟩ := step_next h
  · simp +contextual [henv]
  · simp +contextual [henv]
  · simp +contextual [henv]
  · have hrest := hturn.suffix.subset
    obtain ⟨-, rfl⟩ | ⟨-, -, rfl⟩ | ⟨-, -, w, c, -, -, hexec⟩ | ⟨-, rfl⟩ := agentStep_next h
    · simp +contextual [hrest]
    · simp +contextual [hrest]
    · obtain ⟨-, rfl⟩ := exec_next hexec
      simp +contextual [hrest]
    · simp +contextual [hrest]

/-- A disabled frame timer stays disabled. -/
theorem step_frameTimerOff (hoff : s.FrameTimerOff) (h : step s = .next t) : t.FrameTimerOff := by
  obtain ⟨hfp, hno⟩ := hoff
  obtain ⟨henv, hpending, -⟩ := step_inputs h
  refine ⟨?_, fun hmem => hno (henv hmem)⟩
  by_contra hraised
  simpa [hfp, hno] using hpending (by simpa using hraised)

/-- The words of a legal host stay legal. -/
theorem step_hostLegal (hlegal : s.HostLegal) (h : step s = .next t) : t.HostLegal := by
  obtain ⟨hport, hcoming⟩ := hlegal
  obtain ⟨henv, -, hsource⟩ := step_inputs h
  refine ⟨fun w hw => ?_, fun w hw => ?_⟩
  · rw [step_params h]
    exact (hsource w hw).elim (hport w) (hcoming w)
  · rw [step_params h]
    exact hcoming w (henv hw)

/-- With a legal word at the port, or none, the machine takes a step: only agent L's taking of a word could stop it. -/
theorem step_completes_of_legal_port (hport : ∀ w, s.port = some w → LegalWord s.params.n w) :
    ∃ t, step s = .next t := by
  obtain hnext | ⟨rest, hturn⟩ := step_completes_or_agentsTurn s
  · exact hnext
  cases hfp : s.fp with
  | true => exact ⟨_, step_of_fp hturn hfp⟩
  | false =>
    cases hbusy : s.busy with
    | true => exact ⟨_, step_of_busy hturn hfp hbusy⟩
    | false =>
      cases hw : s.port with
      | none => exact ⟨_, step_of_quiescent hturn ⟨hbusy, hw, hfp⟩⟩
      | some w =>
        obtain ⟨c, hc, hdom⟩ := hport w hw
        exact ⟨_, (step_of_port hturn hfp hbusy hw).trans
          ((acceptCommand_of_ok hc).trans (exec_of_wellFormed hdom))⟩

end

end Sys2Proof.Machine

open Sys2Proof Sys2Proof.Machine

/-- Settles O59 (it holds): a legal word is executed, and the words to come are among those that were to come. -/
theorem legalHostNeverStopsTheMachine : Obligations.LegalHostNeverStopsTheMachine := by
  intro s hlegal
  obtain ⟨t, ht⟩ := step_completes_of_legal_port hlegal.1
  exact ⟨t, ht, step_hostLegal hlegal ht⟩

/-- Settles O57 (it holds): with no request pending no step is the frame step. -/
theorem disabledFrameTimerFreezesTheLines : Obligations.DisabledFrameTimerFreezesTheLines := by
  intro s t hoff hstep
  have hnone : s.fp = false := hoff.1
  obtain ⟨hfp, -⟩ | hkeeps := step_frame_or_keeps hstep
  · simp [hnone] at hfp
  · exact ⟨step_frameTimerOff hoff hstep, hkeeps⟩
end

section
/-! SUPPORT. Builds end (spec/30_encoding.md rule R51, spec/70_reset_and_hazards.md rule R148): within a bound when no
moves are supplied, and in every endless run that is fair to agent L; and a run that starves agent L. -/

namespace Sys2Proof.Machine

/-! ### The end of a build -/

/-- A step that ends a build is its last micro-step, and leaves a fresh Schedule. -/
theorem step_ends_fresh {s t : State} (h : s.Inv) (hbusy : s.busy = true) (hstep : step s = .next t)
    (hend : t.busy = false) : t.Fresh := by
  have hlast := step_ends_build hstep hbusy hend
  by_cases hL : s.AgentLSteps
  · obtain ⟨rest, ⟨-, rfl⟩ | ⟨hidle, -⟩⟩ := step_agentL hstep hL
    · exact buildStep_fresh (h.congr (sameWork_withEnv s rest).toSameBuild) hbusy hlast
    · simp [hbusy] at hidle
  · simp [(step_sameWork hstep hL).busy, hbusy] at hend

/-! ### With no further moves -/

/-- A bound on the steps left of a build: two per settled move (the move and a frame step), one for a pending frame
step, and the micro-steps. -/
def State.stepsLeft (s : State) : Nat := 2 * s.env.length + s.fp.toNat + (255 - s.cur.toNat)

/-- Every step of a build brings its end nearer. -/
theorem step_stepsLeft_lt {s t : State} (hbusy : s.busy = true) (hcur : s.cur.toNat ≤ 254) (h : step s = .next t) :
    t.stepsLeft < s.stepsLeft := by
  have hfp : s.fp.toNat ≤ 1 := Bool.toNat_le s.fp
  obtain ⟨rest, henv, rfl⟩ | ⟨l, rest, henv, rfl⟩ | ⟨w, rest, henv, -, rfl⟩ | ⟨rest, hturn, h⟩ := step_next h
  · simp only [State.stepsLeft, henv, raiseFrameRequest_env, raiseFrameRequest_fp, raiseFrameRequest_cur,
      List.length_cons, Bool.toNat_true]
    omega
  · simp [State.stepsLeft, henv]
  · simp [State.stepsLeft, henv]
  · have hrest := hturn.suffix.length_le
    obtain ⟨hpending, rfl⟩ | ⟨-, -, rfl⟩ | ⟨-, hidle, -⟩ | ⟨⟨hidle, -⟩, -⟩ := agentStep_next h
    · have hpending : s.fp = true := hpending
      simp only [State.stepsLeft, hpending, frameStep_env, frameStep_fp, frameStep_cur, Bool.toNat_true,
        Bool.toNat_false]
      omega
    · have hnext := buildStep_cur_toNat (s := { s with env := rest }) hcur
      simp only [State.stepsLeft, buildStep_env, buildStep_fp, hnext]
      omega
    · simp [hbusy] at hidle
    · simp [hbusy] at hidle

/-- By induction on the bound, a build ends within it. -/
theorem build_ends_within {n : Nat} {s : State} (h : s.Inv) (hbusy : s.busy = true) (hn : s.stepsLeft ≤ n) :
    ∃ k t, k ≤ n ∧ Sys2Proof.core.run k s = .next t ∧ t.busy = false ∧ t.b = s.b ∧ t.Fresh := by
  induction n generalizing s with
  | zero =>
    have hcur := h.cursor hbusy
    rw [State.stepsLeft] at hn
    omega
  | succ n ih =>
    obtain ⟨t, hstep⟩ := step_completes_of_busy hbusy
    obtain ⟨hb, -⟩ := step_busy_keeps hbusy hstep
    cases hend : t.busy with
    | false => exact ⟨1, t, by omega, run_succ hstep 0, hend, hb, step_ends_fresh h hbusy hstep hend⟩
    | true =>
      have hless := step_stepsLeft_lt hbusy (h.cursor hbusy) hstep
      obtain ⟨k, u, hk, hrun, hdone, hub, hfresh⟩ := ih (step_inv h hstep) hend (by omega)
      exact ⟨k + 1, u, by omega, by rw [run_succ hstep, hrun], hdone, hub.trans hb, hfresh⟩

/-! ### Endless runs that are fair to agent L -/

section
variable {input : Nat → List EnvMove} {run : Nat → State} {n : Nat}

/-- Supplied moves are nothing agent L works on. -/
theorem sameWork_supply (s : State) (moves : List EnvMove) : s.SameWork (s.supply moves) := sameWork_withEnv s _

/-- The invariant holds on along a run. -/
theorem EndlessRun.inv (hrun : EndlessRun input run) (h : (run n).Inv) {m : Nat} (hm : n ≤ m) : (run m).Inv := by
  induction m, hm using Nat.le_induction with
  | base => exact h
  | succ m _ ih => exact step_inv (ih.congr (sameWork_supply _ _).toSameBuild) (hrun m)

/-- Work that is kept keeps agent L enabled. -/
theorem State.AgentLEnabled.of_sameWork {s t : State} (h : s.AgentLEnabled) (hst : s.SameWork t) :
    t.AgentLEnabled := by
  obtain hbusy | hport := h
  · exact .inl (hst.busy.trans hbusy)
  · obtain ⟨w, hw⟩ := Option.ne_none_iff_exists'.1 hport
    exact .inr (by simp [hst.port w hw])

/-- In a fair run agent L, once it has work, comes to step on that very work: as long as it does not step, the work
is kept and L stays enabled. -/
theorem EndlessRun.exists_agentLStep (hrun : EndlessRun input run) (hfair : FairL input run)
    (hwork : (run n).AgentLEnabled) :
    ∃ m, n ≤ m ∧ (run n).SameWork (run m) ∧ ((run m).supply (input m)).AgentLSteps := by
  by_contra hnone
  have hkept (m : Nat) (hm : n ≤ m) : (run n).SameWork (run m) := by
    induction m, hm using Nat.le_induction with
    | base => exact .refl _
    | succ m hm ih =>
      have hL : ¬ ((run m).supply (input m)).AgentLSteps := fun hL => hnone ⟨m, hm, ih, hL⟩
      exact ih.trans ((sameWork_supply _ _).trans (step_sameWork (hrun m) hL))
  obtain ⟨m, hm, hL⟩ := hfair ⟨n, fun m hm => hwork.of_sameWork (hkept m hm)⟩ n
  exact hnone ⟨m, hm, hkept m hm, hL⟩

/-- In a fair run a build ends, its store and a waiting word kept: by induction on the micro-steps to entry 254, which
the cursor reaches from every value. -/
theorem EndlessRun.build_ends (hrun : EndlessRun input run) (hfair : FairL input run) (hbusy : (run n).busy = true) :
    ∃ m, n ≤ m ∧ (run m).busy = true ∧ (run (m + 1)).busy = false ∧ (run (m + 1)).b = (run n).b ∧
      ∀ w, (run n).port = some w → (run (m + 1)).port = some w := by
  induction hd : (lastEntry - (run n).cur).toNat using Nat.strong_induction_on generalizing n with
  | _ d ih =>
    obtain ⟨m, hm, hsame, hL⟩ := hrun.exists_agentLStep hfair (.inl hbusy)
    have hbusym : (run m).busy = true := hsame.busy.trans hbusy
    obtain ⟨rest, ⟨-, hnext⟩ | ⟨hidle, -⟩⟩ := step_agentL (hrun m) hL
    · have hb : (run (m + 1)).b = (run n).b := by simpa [hnext] using hsame.b
      have hport (w : Word) (hw : (run n).port = some w) : (run (m + 1)).port = some w := by
        simpa [hnext] using hsame.port w hw
      have hcur : (run (m + 1)).cur = (run n).cur + 1 := by simp [hnext, hsame.cur]
      by_cases hlast : (run n).cur = lastEntry
      · exact ⟨m, hm, hbusym, by simp [hnext, hsame.cur, hlast], hb, hport⟩
      · have hstill : (run (m + 1)).busy = true := by simp [hnext, hsame.cur, hlast, hbusym]
        have hless : (lastEntry - (run (m + 1)).cur).toNat < d := by
          rw [← hd, hcur]
          unfold lastEntry at hlast ⊢
          bv_omega
        obtain ⟨k, hk, hbusyk, hend, hbk, hportk⟩ := ih _ hless hstill rfl
        exact ⟨k, by omega, hbusyk, hend, hbk.trans hb, fun w hw => hportk w (hport w hw)⟩
    · simp [hbusym] at hidle

/-- In a fair run a word waiting outside a build is executed. -/
theorem EndlessRun.word_runs (hrun : EndlessRun input run) (hfair : FairL input run) {w : Word}
    (hidle : (run n).busy = false) (hport : (run n).port = some w) :
    ∃ m c rest, n ≤ m ∧ (run m).port = some w ∧ (run m).busy = false ∧ decode w = .ok c ∧
      exec c { run m with env := rest, port := none } = .next (run (m + 1)) := by
  have hwork : (run n).AgentLEnabled := .inr (by simp [hport])
  obtain ⟨m, hm, hsame, hL⟩ := hrun.exists_agentLStep hfair hwork
  have hidlem : (run m).busy = false := hsame.busy.trans hidle
  have hportm : (run m).port = some w := hsame.port w hport
  obtain ⟨rest, ⟨hbusy, -⟩ | ⟨-, w', c, hw', hdecode, hexec⟩⟩ := step_agentL (hrun m) hL
  · simp [hidlem] at hbusy
  · obtain rfl : w = w' := Option.some.inj (hportm.symm.trans hw')
    exact ⟨m, c, rest, hm, hportm, hidlem, hdecode, hexec⟩

end

/-! ### A run that starves agent L -/

/-- A frame request before every second step. -/
def starvingInput (k : Nat) : List EnvMove := if k % 2 = 0 then [.frameRequest] else []

/-- The run from `s` in which each request is raised and then served. -/
def starvedRun (s : State) : Nat → State
  | 0 => s
  | k + 1 => if k % 2 = 0 then raiseFrameRequest (starvedRun s k) else frameStep (starvedRun s k)

section
variable {s : State}

/-- Along the run agent L's work stands still, a request is pending before every odd step, and one frame step is taken
in every two steps. -/
theorem starvedRun_state (henv : s.env = []) (k : Nat) :
    (starvedRun s k).env = [] ∧ s.SameBuild (starvedRun s k) ∧ (starvedRun s k).port = s.port ∧
      (k % 2 = 1 → (starvedRun s k).fp = true) ∧
      (starvedRun s k).pinEvents.length = s.pinEvents.length + k / 2 := by
  induction k with
  | zero => exact ⟨henv, ⟨rfl, rfl, rfl, rfl, rfl, rfl⟩, rfl, by simp, rfl⟩
  | succ k ih =>
    obtain ⟨henvk, ⟨hparams, hb, hsched, hshadow, hbusy, hcur⟩, hport, -, hlen⟩ := ih
    rw [starvedRun]
    split
    · next heven =>
      exact ⟨henvk, ⟨hparams, hb, hsched, hshadow, hbusy, hcur⟩, hport, fun _ => rfl,
        by rw [raiseFrameRequest_pinEvents, hlen]; omega⟩
    · next hodd =>
      exact ⟨henvk, ⟨hparams, hb, hsched, hshadow, hbusy, hcur⟩, hport, by omega,
        by rw [frameStep_pinEvents, List.length_append, hlen, List.length_singleton]; omega⟩

/-- With no move left, moves supplied and taken back change nothing. -/
theorem supply_withEnv_nil (henv : s.env = []) (moves : List EnvMove) : { s.supply moves with env := [] } = s := by
  rw [← henv]
  rfl

/-- It is a run under `starvingInput`. -/
theorem starvedRun_endlessRun (henv : s.env = []) : EndlessRun starvingInput (starvedRun s) := by
  intro k
  obtain ⟨henvk, -, -, hfp, -⟩ := starvedRun_state henv k
  have hback := supply_withEnv_nil henvk (starvingInput k)
  rw [starvedRun]
  split
  · next heven =>
    rw [step_of_frameRequest (rest := []) (by simp [henvk, starvingInput, heven]), hback]
  · next hodd =>
    have hturn : ((starvedRun s k).supply (starvingInput k)).AgentsTurn [] :=
      .inl ⟨by simp [henvk, starvingInput, hodd], rfl⟩
    rw [step_of_fp hturn (hfp (by omega)), hback]

/-- Agent L never steps: a frame request is to be raised, or it is pending. -/
theorem starvedRun_not_agentLSteps (henv : s.env = []) (k : Nat) :
    ¬ ((starvedRun s k).supply (starvingInput k)).AgentLSteps := by
  obtain ⟨henvk, -, -, hfp, -⟩ := starvedRun_state henv k
  rintro ⟨⟨rest, hturn⟩, hnofp, -⟩
  by_cases heven : k % 2 = 0
  · simp [State.AgentsTurn, henvk, starvingInput, heven] at hturn
  · have := hfp (by omega)
    simp [this] at hnofp

end

end Sys2Proof.Machine

open Sys2Proof Sys2Proof.Machine

/-- Settles O47 (it holds): `stepsLeft` falls with every step of the build, and is at most the bound. -/
theorem everyBuildEnds : Obligations.EveryBuildEnds := by
  intro s hs hbusy
  have hfp : s.fp.toNat ≤ 1 := Bool.toNat_le s.fp
  exact build_ends_within hs hbusy (by rw [State.stepsLeft]; omega)

/-- Settles O60 (it holds): in a fair run the build ends, and then a word still waits and is executed; `starvedRun` is
the run in which agent L is enabled for ever and never steps. -/
theorem fairAgentLMakesProgress : Obligations.FairAgentLMakesProgress := by
  refine ⟨fun input run hrun hfair => ⟨fun n hs hbusy => ?_, fun n w hport => ?_⟩, fun s hbusy henv => ?_⟩
  · obtain ⟨m, hm, hbusym, hend, hb, -⟩ := hrun.build_ends hfair hbusy
    have hinv := (hrun.inv hs hm).congr (sameWork_supply _ (input m)).toSameBuild
    exact ⟨m + 1, by omega, hend, hb, step_ends_fresh hinv hbusym (hrun m) hend⟩
  · cases hbusy : (run n).busy with
    | false => exact hrun.word_runs hfair hbusy hport
    | true =>
      obtain ⟨m, hm, -, hend, -, hkept⟩ := hrun.build_ends hfair hbusy
      obtain ⟨k, c, rest, hk, hdone⟩ := hrun.word_runs hfair hend (hkept w hport)
      exact ⟨k, c, rest, by omega, hdone⟩
  · have hbusyk (k : Nat) : (starvedRun s k).busy = true := by
      obtain ⟨-, hsame, -⟩ := starvedRun_state henv k
      exact hsame.busy.trans hbusy
    refine ⟨starvingInput, starvedRun s, rfl, starvedRun_endlessRun henv, fun hfair => ?_, fun k => ?_⟩
    · obtain ⟨k, -, hL⟩ := hfair ⟨0, fun k _ => .inl (hbusyk k)⟩ 0
      exact starvedRun_not_agentLSteps henv k hL
    · obtain ⟨-, hsame, hport, -, hlen⟩ := starvedRun_state henv k
      exact ⟨hbusyk k, hsame.cur, hport, hsame.b, hsame.sched, hlen⟩
end

section
/-! SUPPORT. The frame step and the walk through the Schedule (spec/42_schedule_driver.md rules R110, R112, R113), and the
duty cycle of a channel (spec/41_schedule_builder.md rule R102). -/

namespace Sys2Proof.Machine

/-! ### The latch behind an emitted pair -/

section
variable {p : Params} {on : Word}

/-- An on-mask clear of the reserved bit is what the other 31 lines show afterwards. -/
theorem latch_offMask_and_not (h : on &&& p.reservedMask = 0) (pins : Word) :
    latch pins on (offMask p on) &&& ~~~p.reservedMask = on := by
  apply BitVec.eq_of_getLsbD_eq
  intro n hn
  have hbit := congrArg (·.getLsbD n) h
  simp [latch, offMask, hn] at hbit ⊢
  grind

/-- And the reserved line keeps its state. -/
theorem latch_offMask_and_reserved (h : on &&& p.reservedMask = 0) (pins : Word) :
    latch pins on (offMask p on) &&& p.reservedMask = pins &&& p.reservedMask := by
  apply BitVec.eq_of_getLsbD_eq
  intro n hn
  have hbit := congrArg (·.getLsbD n) h
  simp [latch, offMask, hn] at hbit ⊢
  grind

end

/-! ### The walk -/

/-- The event of the frame step at the phase `k + 1` after the current one. -/
def State.eventAhead (s : State) (k : Nat) : PinEvent :=
  ⟨s.readS ((s.ph.toNat + k + 1) % 256), offMask s.params (s.readS ((s.ph.toNat + k + 1) % 256))⟩

section
variable {s : State}

theorem frameStep_pinEvents_eventAhead (s : State) : (frameStep s).pinEvents = s.pinEvents ++ [s.eventAhead 0] := by
  rw [frameStep_pinEvents, BitVec.toNat_add]
  rfl

/-- A frame step brings the events ahead one nearer. -/
theorem eventAhead_frameStep (s : State) (k : Nat) : (frameStep s).eventAhead k = s.eventAhead (k + 1) := by
  have hph : ((frameStep s).ph.toNat + k + 1) % 256 = (s.ph.toNat + (k + 1) + 1) % 256 := by
    have hone : (1 : Byte).toNat = 1 := rfl
    rw [frameStep_ph, BitVec.toNat_add, hone]
    omega
  rw [State.eventAhead, State.eventAhead, hph, readS_frameStep, frameStep_params]

/-- A frame period is two steps of the machine, the request and the frame step, whatever agent L has to do. -/
theorem run_framePeriod {rest : List EnvMove} (h : s.env = .frameRequest :: .agents :: rest) (k : Nat) :
    Sys2Proof.core.run (k + 2) s = Sys2Proof.core.run k (frameStep { s with fp := true, env := rest }) := by
  have hturn : (raiseFrameRequest { s with env := .agents :: rest }).AgentsTurn rest := .inr (.inl rfl)
  rw [run_succ (step_of_frameRequest h), run_succ (step_of_fp hturn rfl)]
  rfl

/-- The walk: `n` frame periods advance the phase by `n`, emit the next `n` events and leave agent L's work alone. -/
theorem run_framePeriods {n : Nat} (h : s.env = framePeriods n) :
    ∃ t, Sys2Proof.core.run (2 * n) s = .next t ∧ t.ph = s.ph + BitVec.ofNat 8 n ∧
      t.pinEvents = s.pinEvents ++ (List.range n).map s.eventAhead ∧
      t.sched = s.sched ∧ t.b = s.b ∧ t.busy = s.busy ∧ t.cur = s.cur ∧ t.port = s.port := by
  induction n generalizing s with
  | zero => exact ⟨s, rfl, by simp, by simp, rfl, rfl, rfl, rfl, rfl⟩
  | succ n ih =>
    obtain ⟨t, hrun, hph, hevents, hkept⟩ := ih (s := frameStep { s with fp := true, env := framePeriods n }) rfl
    refine ⟨t, (run_framePeriod h _).trans hrun, ?_, ?_, hkept⟩
    · rw [hph, frameStep_ph]
      bv_omega
    · have hahead : (frameStep { s with fp := true, env := framePeriods n }).eventAhead = s.eventAhead ∘ Nat.succ :=
        funext fun k => eventAhead_frameStep _ k
      rw [hevents, frameStep_pinEvents_eventAhead, hahead, List.range_succ_eq_map, List.map_cons, List.map_map,
        List.append_assoc]
      rfl

/-! ### The duty cycle -/

/-- Counting around a cycle of `n` places from any start counts the whole range. -/
theorem countP_cycle (f : Nat → Bool) (m n : Nat) :
    (List.range n).countP (fun k => f ((m + k + 1) % n)) = (List.range n).countP f := by
  have hrotate : (List.range n).map (fun k => (m + k + 1) % n) = (List.range n).rotate (m + 1) := by
    refine List.ext_getElem (by simp) fun k h _ => ?_
    have hsum : m + k + 1 = k + (m + 1) := by omega
    simp [List.getElem_rotate, hsum]
  rw [← ((List.range n).rotate_perm (m + 1)).countP_eq f, ← hrotate, List.countP_map]
  rfl

/-- Of the first `n` numbers, `min m n` are below `m`. -/
theorem countP_lt_range (m n : Nat) : (List.range n).countP (fun t => t < m) = min m n := by
  induction n with
  | zero => simp
  | succ n ih =>
    rw [List.range_succ, List.countP_append, ih, List.countP_singleton]
    grind

/-- A number is below a maximum when it is below an element. -/
theorem lt_foldr_max {t : Nat} {xs : List Nat} : t < xs.foldr max 0 ↔ ∃ x ∈ xs, t < x := by
  induction xs with
  | nil => simp
  | cons x xs ih => simp [ih]

/-- A line that is in the target mask exactly below phase `m` is on in `m` of the next 256 frame steps. -/
theorem countP_eventAhead (hfresh : s.Fresh) {line m : Nat} (hm : m ≤ 255)
    (hline : ∀ t, (targetMask s.params s.b t).getLsbD line = true ↔ t < m) :
    ((List.range 256).map s.eventAhead).countP (fun e => e.on.getLsbD line) = m := by
  rw [List.countP_map]
  refine (countP_cycle (fun t => (s.readS t).getLsbD line) s.ph.toNat 256).trans ?_
  calc (List.range 256).countP (fun t => (s.readS t).getLsbD line)
      = (List.range 256).countP (fun t => t < m) := List.countP_congr fun t ht => by
        rw [hfresh t (List.mem_range.1 ht), hline, decide_eq_true_iff]
    _ = m := by
        rw [countP_lt_range]
        omega

end

section
variable {p : Params} {b : List Byte} {line : Nat}

/-- The largest effective brightness among the channels that own a line. -/
def ownersMax (p : Params) (b : List Byte) (line : Nat) : Nat :=
  (((List.range p.n).filter (fun i => (p.pin i).getLsbD line)).map (fun i => (effAt p b i).toNat)).foldr max 0

theorem lt_ownersMax {t : Nat} :
    t < ownersMax p b line ↔ ∃ i, i < p.n ∧ (p.pin i).getLsbD line = true ∧ t < (effAt p b i).toNat := by
  simp [ownersMax, lt_foldr_max, and_assoc]

theorem ownersMax_le (p : Params) (b : List Byte) (line : Nat) : ownersMax p b line ≤ 255 := by
  by_contra h
  obtain ⟨i, -, -, heff⟩ := lt_ownersMax.1 (not_le.1 h)
  have := (effAt p b i).isLt
  omega

theorem targetMask_bit_iff_lt_ownersMax (t : Nat) :
    (targetMask p b t).getLsbD line = true ↔ t < ownersMax p b line := by
  rw [targetMask_bit, lt_ownersMax]
  exact exists_congr fun i => and_congr_right fun _ => and_comm

/-- With disjoint pins a line has one owner. -/
theorem ownersMax_of_disjoint (hp : p.DisjointPins) {i : Nat} (hi : i < p.n) (hpin : (p.pin i).getLsbD line = true) :
    ownersMax p b line = (effAt p b i).toNat := by
  refine eq_of_forall_lt_iff fun t => ?_
  rw [lt_ownersMax]
  refine ⟨fun ⟨j, hj, hpinj, hlt⟩ => ?_, fun hlt => ⟨i, hi, hpin, hlt⟩⟩
  by_cases hij : i = j
  · exact hij ▸ hlt
  · have hboth := congrArg (·.getLsbD line) (hp i j hi hj hij)
    simp [hpin, hpinj] at hboth

end

end Sys2Proof.Machine

open Sys2Proof Sys2Proof.Machine

/-- Settles O51 (it holds), by the definition of the frame step. -/
theorem frameStepAdvancesAndEmits : Obligations.FrameStepAdvancesAndEmits := fun s =>
  ⟨_, rfl, rfl, BitVec.toNat_add s.ph 1, rfl, rfl, rfl⟩

/-- Settles O52 (it holds): in the invariant the entry is clear of the reserved bit, which gives the laws of the pair and
of the latch. -/
theorem everyEmittedPairSparesTheReservedLine : Obligations.EveryEmittedPairSparesTheReservedLine := by
  intro s hs
  have hclear : s.readS (s.ph + 1).toNat &&& s.params.reservedMask = 0 := hs.schedClear _
  refine ⟨_, frameStep_pinEvents s, ?_, hclear, offMask_and_reserved _ _, ?_, latch_offMask_and_not hclear _,
    latch_offMask_and_reserved hclear _⟩
  · rw [BitVec.and_comm, offMask_and_on]
  · rw [BitVec.or_comm, offMask_or_on hclear]

/-- Settles O55 (it holds). -/
theorem framePeriodsWalkTheSchedule : Obligations.FramePeriodsWalkTheSchedule := fun _ _ => run_framePeriods

/-- Settles O56 (it holds): the 256 events are one cycle through the target masks, and a line is in those below its
owners' largest effective brightness. -/
theorem dutyCycleIsTheEffectiveBrightness : Obligations.DutyCycleIsTheEffectiveBrightness := by
  intro s hfresh henv
  obtain ⟨t, hrun, -, hevents, -⟩ := run_framePeriods henv
  have hcount (line : Nat) := countP_eventAhead hfresh (ownersMax_le s.params s.b line) targetMask_bit_iff_lt_ownersMax
  refine ⟨t, _, hrun, hevents, by simp, hcount, fun hp i line hi hpin => ?_⟩
  rw [hcount, ownersMax_of_disjoint hp hi hpin]
end

section
/-! SUPPORT. The laws of the arithmetic policies (spec/40_brightness_ops.md rule R85). -/

namespace Sys2Proof.Machine

section
variable (x y : Byte)

/-- On the naturals the clamped difference is the truncated one. -/
theorem subSat_toNat_eq_sub : (subSat x y).toNat = x.toNat - y.toNat := by
  have := subSat_toNat x y
  omega

theorem subWrap_toNat_eq_mod : (subWrap x y).toNat = (x.toNat + 256 - y.toNat) % 256 := by
  rw [subWrap, BitVec.toNat_ofNat]
  omega

theorem subWrap_addWrap : subWrap (addWrap x y) y = x := by
  apply BitVec.eq_of_toNat_eq
  have := x.isLt
  have := y.isLt
  rw [subWrap_toNat_eq_mod, addWrap_toNat]
  omega

theorem addWrap_subWrap : addWrap (subWrap x y) y = x := by
  apply BitVec.eq_of_toNat_eq
  have := x.isLt
  have := y.isLt
  rw [addWrap_toNat, subWrap_toNat_eq_mod]
  omega

/-- Clamped and wrapped sum agree when there is no overflow. -/
theorem addSat_eq_addWrap_iff : addSat x y = addWrap x y ↔ x.toNat + y.toNat ≤ 255 := by
  have := x.isLt
  have := y.isLt
  rw [← BitVec.toNat_inj, addSat_toNat, addWrap_toNat]
  omega

/-- Clamped and wrapped difference agree when there is no borrow. -/
theorem subSat_eq_subWrap_iff : subSat x y = subWrap x y ↔ y.toNat ≤ x.toNat := by
  have := x.isLt
  have := y.isLt
  rw [← BitVec.toNat_inj, subSat_toNat_eq_sub, subWrap_toNat_eq_mod]
  omega

/-- The clamped difference undoes the clamped sum when that did not clamp. -/
theorem subSat_addSat_iff : subSat (addSat x y) y = x ↔ x.toNat + y.toNat ≤ 255 := by
  have := x.isLt
  rw [← BitVec.toNat_inj, subSat_toNat_eq_sub, addSat_toNat]
  omega

/-- Adding is subtracting the complement to 256. -/
theorem addWrap_eq_subWrap : addWrap x y = subWrap x (BitVec.ofNat 8 ((256 - y.toNat) % 256)) := by
  apply BitVec.eq_of_toNat_eq
  have := y.isLt
  rw [addWrap_toNat, subWrap_toNat_eq_mod, BitVec.toNat_ofNat]
  omega

end

end Sys2Proof.Machine

open Sys2Proof Sys2Proof.Machine

/-- Settles O20 (it holds). -/
theorem arithmeticLaws : Obligations.ArithmeticLaws := by
  intro x y
  have hx := x.isLt
  have hy := y.isLt
  have hzero : (0 : Byte).toNat = 0 := rfl
  have hlast : (255 : Byte).toNat = 255 := rfl
  refine ⟨?_, ?_, ?_, ?_, ?_, ?_, ?_, ?_, addSat_eq_addWrap_iff x y, subSat_eq_subWrap_iff x y, subWrap_addWrap x y,
    addWrap_subWrap x y, subSat_addSat_iff x y, addWrap_eq_subWrap x y⟩
  all_goals
    rw [← BitVec.toNat_inj]
    simp only [addSat_toNat, subSat_toNat_eq_sub, addWrap_toNat, subWrap_toNat_eq_mod]
    omega
end

section
/-! SUPPORT. The commands on all channels and the rotations (spec/40_brightness_ops.md rules R75, R77, R79 to R81, R83):
what each register holds after one, and what two or more leave. -/

namespace Sys2Proof.Machine

section
variable {s : State}

/-! ### Commands one after another -/

/-- A command without a channel index completes with its effect. -/
theorem exec_of_no_channel {c : Instr} (hc : c.channel? = none) (s : State) : exec c s = .next (effectOf c s) :=
  exec_of_wellFormed (by rw [Instr.wellFormed, hc])

theorem execList_cons {c : Instr} {t : State} (h : exec c s = .next t) (cs : List Instr) :
    execList (c :: cs) s = execList cs t := by
  simp only [execList, h]

/-! ### All channels -/

/-- Every register of a sized store takes its own new value. -/
theorem storeWrite_mapB (hs : s.Sized) {f : Byte → Byte} {g : Nat → Nat}
    (hg : ∀ j, j < s.params.n → (f (s.readB j)).toNat = g j) : s.StoreWrite (s.mapB f) g := by
  refine ⟨rfl, by simp, fun j hj => ?_⟩
  have hjb : j < s.b.length := hs.symm ▸ hj
  rw [← hg j hj]
  simp [State.readB, hjb]

theorem mapB_mapB (s : State) (f g : Byte → Byte) : (s.mapB f).mapB g = s.mapB (g ∘ f) := by
  simp [State.mapB]

theorem mapB_id (s : State) : s.mapB id = s := by
  simp [State.mapB]

/-- `m` times SUBS.ALL v is the `m`-fold clamped difference in every register. -/
theorem execList_replicate_subsAll (v : Byte) (m : Nat) (s : State) :
    execList (List.replicate m (.subsAll v)) s = .next (s.mapB (subSat · v)^[m]) := by
  induction m generalizing s with
  | zero => exact congrArg _ (mapB_id s).symm
  | succ m ih =>
    rw [List.replicate_succ, execList_cons (exec_of_no_channel rfl s), ih, effectOf, mapB_mapB, Function.iterate_succ]

theorem iterate_subSat_toNat (v x : Byte) (m : Nat) : ((subSat · v)^[m] x).toNat = x.toNat - m * v.toNat := by
  induction m with
  | zero => simp
  | succ m ih => rw [Function.iterate_succ_apply', subSat_toNat_eq_sub, ih, Nat.succ_mul, Nat.sub_sub]

/-! ### Rotations -/

/-- Channel `j` takes the value of channel `src j`. -/
theorem readB_permuteB {src : Nat → Nat} {j : Nat} (hj : j < s.params.n) :
    (s.permuteB src).readB j = s.readB (src j) := by
  rw [State.readB, permuteB_b]
  simp [hj]

theorem storeWrite_permuteB (hs : s.Sized) (src : Nat → Nat) :
    s.StoreWrite (s.permuteB src) fun j => (s.readB (src j)).toNat :=
  ⟨rfl, by simpa using hs.symm, fun _ hj => by rw [readB_permuteB hj]⟩

/-- ROTR looks for a value where ROTL would take it from. -/
theorem rotrSource_rotlSource {n j : Nat} (hj : j < n) (k : Byte) : rotrSource n k (rotlSource n k j) = j := by
  have hr : k.toNat % n < n := Nat.mod_lt _ (by omega)
  rw [rotrSource, rotlSource, ← Nat.add_mod_mod]
  obtain hlt | hge := lt_or_ge (j + k.toNat % n) n
  · rw [Nat.mod_eq_of_lt hlt, show j + k.toNat % n + n - k.toNat % n = j + n by omega, Nat.add_mod_right,
      Nat.mod_eq_of_lt hj]
  · have hwrap : (j + k.toNat % n) % n = j + k.toNat % n - n := by
      rw [Nat.mod_eq_sub_mod hge, Nat.mod_eq_of_lt (by omega)]
    rw [hwrap, show j + k.toNat % n - n + n - k.toNat % n = j by omega, Nat.mod_eq_of_lt hj]

/-- Rotating by `k` and by `N - (k mod N)` is rotating by a multiple of `N`. -/
theorem rotate_full_circle (hs : s.Sized) (k : Nat) : s.b.rotate (k + (s.params.n - k % s.params.n)) = s.b := by
  obtain hempty | hpos := Nat.eq_zero_or_pos s.params.n
  · rw [List.eq_nil_of_length_eq_zero (hs.trans hempty), List.rotate_nil]
  · have hr := Nat.mod_lt k hpos
    have hdiv := Nat.div_add_mod k s.params.n
    have hmul : k + (s.params.n - k % s.params.n) = s.b.length * (k / s.params.n + 1) := by
      rw [show s.b.length = s.params.n from hs, Nat.mul_succ]
      omega
    rw [hmul, List.rotate_length_mul]

theorem effectOf_rotl (hs : s.Sized) (k : Byte) : effectOf (.rotl k) s = { s with b := s.b.rotate k.toNat } :=
  effectOf_rotl_b hs k ▸ rfl

theorem effectOf_rotr (hs : s.Sized) (k : Byte) :
    effectOf (.rotr k) s = { s with b := s.b.rotate (s.params.n - k.toNat % s.params.n) } :=
  effectOf_rotr_b hs k ▸ rfl

end

end Sys2Proof.Machine

open Sys2Proof Sys2Proof.Machine

/-- Settles O27 (it holds): each form is its policy in every register. -/
theorem allChannelFormsUpdateEveryRegister : Obligations.AllChannelFormsUpdateEveryRegister := fun v s hs =>
  ⟨⟨_, exec_of_no_channel rfl s, storeWrite_mapB hs fun _ _ => addSat_toNat _ v⟩,
    ⟨_, exec_of_no_channel rfl s, storeWrite_mapB hs fun _ _ => by rw [← subSat_toNat, Int.toNat_natCast]⟩,
    ⟨_, exec_of_no_channel rfl s, storeWrite_mapB hs fun _ _ => addWrap_toNat _ v⟩,
    ⟨_, exec_of_no_channel rfl s, storeWrite_mapB hs fun _ _ => by rw [← subWrap_toNat, Int.toNat_natCast]⟩⟩

/-- Settles O28 (it holds). -/
theorem rotlMovesValuesTowardLowerIndices : Obligations.RotlMovesValuesTowardLowerIndices := fun _ s hs =>
  ⟨_, exec_of_no_channel rfl s, storeWrite_permuteB hs _⟩

/-- Settles O29 (it holds): the source of channel (j + k) mod N is channel j. -/
theorem rotrMovesValuesTowardHigherIndices : Obligations.RotrMovesValuesTowardHigherIndices := by
  refine fun k s hs => ⟨_, exec_of_no_channel rfl s, storeWrite_permuteB hs _, fun j hj => ?_⟩
  have hsource := rotrSource_rotlSource hj k
  rw [rotlSource] at hsource
  rw [effectOf, readB_permuteB (Nat.mod_lt _ (by omega)), hsource]

/-- Settles O30 (it holds): both orders rotate the store by one multiple of N. -/
theorem rotationsUndoEachOther : Obligations.RotationsUndoEachOther := by
  intro k s hs
  have hlen (m : Nat) : State.Sized { s with b := s.b.rotate m } := by
    rw [State.Sized, List.length_rotate]
    exact hs
  constructor
  · rw [execList_cons (exec_of_no_channel rfl _), execList_cons (exec_of_no_channel rfl _), effectOf_rotl hs,
      effectOf_rotr (hlen _), List.rotate_rotate, rotate_full_circle hs]
    rfl
  · rw [execList_cons (exec_of_no_channel rfl _), execList_cons (exec_of_no_channel rfl _), effectOf_rotr hs,
      effectOf_rotl (hlen _), List.rotate_rotate, Nat.add_comm, rotate_full_circle hs]
    rfl

/-- Settles O32 (it holds): the wrapped sum and difference are inverse in every register. -/
theorem wrappingFormsUndoEachOther : Obligations.WrappingFormsUndoEachOther := by
  intro v s
  have hsub : (subWrap · v) ∘ (addWrap · v) = id := funext fun x => subWrap_addWrap x v
  have hadd : (addWrap · v) ∘ (subWrap · v) = id := funext fun x => addWrap_subWrap x v
  constructor
  · rw [execList_cons (exec_of_no_channel rfl _), execList_cons (exec_of_no_channel rfl _), effectOf, effectOf,
      mapB_mapB, hsub, mapB_id]
    rfl
  · rw [execList_cons (exec_of_no_channel rfl _), execList_cons (exec_of_no_channel rfl _), effectOf, effectOf,
      mapB_mapB, hadd, mapB_id]
    rfl

/-- Settles O33 (it holds): m times v is at least 255, which no brightness exceeds. -/
theorem repeatedFadeReachesZero : Obligations.RepeatedFadeReachesZero := by
  intro v s m hs hv hm
  refine ⟨_, execList_replicate_subsAll v m s, storeWrite_mapB hs fun j _ => ?_⟩
  have hbright := (s.readB j).isLt
  have hfade : 255 ≤ v.toNat * m := by
    rw [Nat.div_le_iff_le_mul_add_pred hv] at hm
    omega
  rw [iterate_subSat_toNat, Nat.mul_comm]
  omega
end

section
/-! SUPPORT. The reset state (spec/70_reset_and_hazards.md rules R141, R142). -/

namespace Sys2Proof.Machine

theorem reference_legal : Params.reference.legal = true := by
  decide +kernel

@[simp] theorem readS_atReset (p : Params) (pins0 : Word) (k : Nat) : (State.atReset p pins0).readS k = 0 := rfl

section
variable {p : Params}

/-- The reset state of a legal parameter set meets the invariant: both arrays are empty and no build runs. -/
theorem atReset_inv (hp : p.legal = true) (pins0 : Word) : (State.atReset p pins0).Inv where
  legal := hp
  sized := List.length_replicate
  schedWf := rfl
  shadowWf := rfl
  lastZero := rfl
  schedClear _ := BitVec.zero_and
  shadowClear _ := BitVec.zero_and
  cursor hbusy := nomatch hbusy
  built hbusy := nomatch hbusy

/-- In the dark store every channel has the effective brightness of 0. -/
theorem effAt_replicate_zero (p : Params) (n i : Nat) : effAt p (List.replicate n 0) i = effective p 0 := by
  simp [effAt]

/-- Every line is dark at every phase exactly when no channel shines. -/
theorem targetMask_dark_iff (hp : p.legal = true) (b : List Byte) :
    (∀ t, t < 256 → targetMask p b t = 0) ↔ ∀ i, i < p.n → effAt p b i = 0 := by
  refine ⟨fun hdark i hi => ?_, fun heff t _ => targetMask_eq_zero fun i hi => by simp [heff i hi]⟩
  by_contra hshines
  have hlt : 0 < (effAt p b i).toNat := Nat.pos_of_ne_zero fun h => hshines (BitVec.eq_of_toNat_eq h)
  refine Params.pin_ne_zero_of_legal hp hi (BitVec.eq_of_getLsbD_eq fun n _ => ?_)
  by_contra hpin
  have hon := (targetMask_bit (b := b) n).2 ⟨i, hi, hlt, by simpa using hpin⟩
  simp [hdark 0 (by omega)] at hon

end

end Sys2Proof.Machine

open Sys2Proof Sys2Proof.Machine

/-- Settles O1 (it holds). -/
theorem constructionLeavesTheResetState : Obligations.ConstructionLeavesTheResetState := fun p pins0 hp =>
  ⟨_, construct_of_legal hp pins0, rfl, List.length_replicate, fun i _ => readB_atReset p pins0 i,
    fun k _ => readS_atReset p pins0 k, rfl, rfl, rfl, rfl, rfl, rfl, rfl, rfl, rfl⟩

/-- Settles O2 (it holds). -/
theorem resetIsTheConstructedReference : Obligations.ResetIsTheConstructedReference :=
  ⟨construct_of_legal reference_legal 0, by decide⟩

/-- Settles O4 (it holds). -/
theorem resetSatisfiesTheMachineInvariant : Obligations.ResetSatisfiesTheMachineInvariant :=
  ⟨fun _ pins0 hp => atReset_inv hp pins0, atReset_inv reference_legal 0⟩

/-- Settles O5 (it holds): the empty Schedule is fresh exactly when every target mask is dark, which is when the
effective brightness of 0 is 0; a legal set has a channel. -/
theorem resetScheduleIsFreshUnlessTheCurveLightsZero : Obligations.ResetScheduleIsFreshUnlessTheCurveLightsZero := by
  intro p pins0 hp
  have hfresh : (State.atReset p pins0).Fresh ↔ ∀ t, t < 256 → targetMask p (List.replicate p.n 0) t = 0 :=
    forall₂_congr fun _ _ => eq_comm
  obtain ⟨hchannel, -⟩ := p.legal_iff.1 hp
  rw [hfresh, targetMask_dark_iff hp]
  simp only [effAt_replicate_zero, effective, Params.CurveZero]
  cases p.useCurve with
  | false => simp
  | true => exact ⟨fun h _ => h 0 hchannel, fun h _ _ => h rfl⟩

/-- Settles O6 (it holds): one frame period of the walk from an empty Schedule. -/
theorem firstFrameAfterResetDeassertsEveryLine : Obligations.FirstFrameAfterResetDeassertsEveryLine := by
  refine fun p pins0 => ⟨rfl, ?_⟩
  obtain ⟨t, hrun, hph, hevents, -⟩ := run_framePeriods (s := { State.atReset p pins0 with env := framePeriods 1 }) rfl
  refine ⟨t, hrun, hph, hevents.trans ?_⟩
  rw [← offMask_zero]
  rfl
end
